-- ==== Sys2Proof/Word.lean ====
section
/-! DEFINITION. The words of the block: a byte of a link, a 12-bit position, the 34-bit command word
(00_scope.md R17; every value is unsigned). -/

namespace Sys2Proof

/-- A byte is 8 bits, `b[7:0]` (R17). -/
abbrev Byte := BitVec 8

/-- A position is a 12-bit unsigned value (00_scope.md, Glossary; 10_state.md R31). -/
abbrev Pos := BitVec 12

/-- The command word presented on the command port is 34 bits wide (30_encoding.md R74). -/
abbrev CmdWord := BitVec 34

end Sys2Proof
end

