-- ==== Sys2Proof/Config.lean ====
section
/-! DEFINITION. The configuration record (00_scope.md R5 to R16, 10_state.md R35), the inputs of one step
(10_state.md R20, R36, R37), and the free values: constants without a body, for what the spec leaves open. -/

namespace Sys2Proof

/-! ### Fixed parameters -/

/-- `NUM_CH = 16` (R5). -/
abbrev numCh : Nat := 16

/-- `SENTINEL_CH = 1` (R6), as the 8-bit operand of FBREQ. -/
def sentinelCh : BitVec 8 := 1#8

/-- `CH_WIRE_MAX = 0x16` (R7). -/
def chWireMax : BitVec 8 := 0x16#8

/-- `WARMUP_SPEED = 0` (R8), as the 8-bit operand of MOVE. -/
def warmupSpeed : BitVec 8 := 0#8

/-! ### Selectable parameters -/

/-- `MODE` (R16): who issues the block's operations. -/
inductive Mode where
  | seq
  | direct
deriving DecidableEq, Repr

/-- `VARIANT` (R9): how the sequencer confirms arrival. -/
inductive Variant where
  | v1Feedback
  | v2Delay
deriving DecidableEq, Repr, Inhabited

/-- `RANGE_CHECK` (R13). -/
inductive RangeCheck where
  | checked
  | unchecked
deriving DecidableEq, Repr

/-- `WAIT_POLICY` (R14): `BOUNDED(N)` with N ≥ 1. -/
inductive WaitPolicy where
  | infinite
  | bounded (n : Nat)
deriving DecidableEq, Repr

/-- `ARRIVAL_POLL_LIMIT` (R15): a limit M with M ≥ 1. -/
inductive PollLimit where
  | unbounded
  | limit (m : Nat)
deriving DecidableEq, Repr

/-- The parameters as a user names them, before they are accepted (R9 to R16). -/
structure Params where
  mode : Mode
  variant : Variant
  rangeCheck : RangeCheck
  waitPolicy : WaitPolicy
  pollLimit : PollLimit
  posA : Pos
  posB : Pos
  posWarmup : Pos
  speedMove : BitVec 6
  delayBudget : BitVec 32
deriving DecidableEq, Repr

/-- `N ≥ 1` (R14). -/
def WaitPolicy.legal : WaitPolicy → Bool
  | .infinite => true
  | .bounded n => decide (1 ≤ n)

/-- `M ≥ 1` (R15). -/
def PollLimit.legal : PollLimit → Bool
  | .unbounded => true
  | .limit m => decide (1 ≤ m)

/-- What a configuration must meet: `SPEED_MOVE` is not 0 (R11), N ≥ 1 (R14), M ≥ 1 (R15). -/
def Params.legal (p : Params) : Bool :=
  decide (p.speedMove ≠ 0#6) && p.waitPolicy.legal && p.pollLimit.legal

/-- An accepted configuration: parameters with the evidence that they are legal.
"A configuration with SPEED_MOVE = 0 is refused" (R11): it is no value of this type. -/
structure Config extends Params where
  legal : toParams.legal = true
deriving DecidableEq, Repr

/-- Accept or refuse a set of parameters (R11, R14, R15). -/
def Params.accept (p : Params) : Option Config :=
  if h : p.legal = true then some ⟨p, h⟩ else none

/-! ### The inputs of a step -/

/-- The input ports, which the environment chooses afresh at every step (R20, R36, R37).
`startN` is active low: false = pressed. -/
structure Env where
  rst : Bool
  txReady : Bool
  rxReady : Bool
  rxData : Byte
  startN : Bool
  cmdValid : Bool
  cmdWord : CmdWord
deriving DecidableEq, Repr, Inhabited

/-- No input active (the model's own value, DESIGN CHOICE, log 4). -/
def Env.quiet : Env :=
  { rst := false, txReady := false, rxReady := false, rxData := 0, startN := true, cmdValid := false, cmdWord := 0 }

/-! ### Free values: nothing constrains them -/

/-- The environment's choice at the n-th step, where the state lists none (R20; log 2). -/
opaque Config.freeEnv : Nat → Env

/-- `tx_data` while `tx_valid = 0` (R36 "unspecified otherwise"; log 6). -/
opaque Config.freeTxData : Nat → Byte

/-- Port `res_ch` before its first write (R34 "it holds no value"; log 7). -/
opaque Config.freeResCh : Nat → BitVec 5

/-- Port `res_pos` before its first write (R34; log 7). -/
opaque Config.freeResPos : Nat → Pos

/-- Port `res_arr` before its first write (R34; log 7). -/
opaque Config.freeResArr : Nat → Bool

/-! ### The OPEN parameters (R9 to R12): the spec gives no value (log 5) -/

opaque Config.openVariant : Variant
opaque Config.openPosA : Pos
opaque Config.openPosB : Pos
opaque Config.openPosWarmup : Pos
opaque Config.openDelayBudget : BitVec 32

/-- `SPEED_MOVE - 1`, so that the speed below ranges over exactly the non-zero values (R11). -/
opaque Config.openSpeedLessOne : Fin 63

/-- `SPEED_MOVE`: open, but not 0 (R11). -/
def Config.openSpeedMove : BitVec 6 := BitVec.ofNat 6 (Config.openSpeedLessOne.val + 1)

/-- The spec's defaults (R13 to R16), and the OPEN parameters left open (R9 to R12). -/
def Params.default : Params :=
  { mode := .seq, variant := Config.openVariant, rangeCheck := .checked, waitPolicy := .infinite,
    pollLimit := .unbounded, posA := Config.openPosA, posB := Config.openPosB,
    posWarmup := Config.openPosWarmup, speedMove := Config.openSpeedMove,
    delayBudget := Config.openDelayBudget }

theorem Config.openSpeedMove_ne_zero : Config.openSpeedMove ≠ 0#6 := by
  intro h
  have hn := congrArg BitVec.toNat h
  have hlt := Config.openSpeedLessOne.isLt
  simp [Config.openSpeedMove] at hn
  omega

theorem Params.default_legal : Params.default.legal = true := by
  simp [Params.legal, Params.default, Config.openSpeedMove_ne_zero, WaitPolicy.legal, PollLimit.legal]

/-- The configuration of the reset state. -/
def Config.default : Config := ⟨Params.default, Params.default_legal⟩

end Sys2Proof
end

