-- ==== Sys2Proof/Machine/State.lean ====
section
/-! DEFINITION. The state of the block (10_state.md R21 to R38, 20_memory.md R50), the reasons a step can stop,
and the state after reset (R42). Plain data throughout. -/

namespace Sys2Proof.Machine

/-- The values of `seq` (R22). The codes 0xA to 0xD are never entered and have no constructor (log 14). -/
inductive SeqState where
  | warm
  | waitPress
  | waitRelease
  | waitLow
  | issue
  | pollReq
  | pollResp
  | test
  | delay
  | hIdle
  | error
  | fault
deriving DecidableEq, Repr

/-- The values of `op` (R23). Code 3 is never entered and has no constructor (log 14). -/
inductive OpState where
  | idle
  | tx
  | rx
deriving DecidableEq, Repr

/-- `ep` (R24): 0 = A, 1 = B. -/
inductive Endpoint where
  | a
  | b
deriving DecidableEq, Repr

/-- The causes that halt the block (60_exceptions.md R201), codes 1 to 7. -/
inductive HaltCause where
  | fChannel
  | fFbIndex
  | fFbPosition
  | fUnwritten
  | fArrIndex
  | eTimeout
  | eArrival
deriving DecidableEq, Repr

/-- `frm[0..3]` (R27). -/
structure Frame where
  b0 : Byte
  b1 : Byte
  b2 : Byte
  b3 : Byte
deriving DecidableEq, Repr

/-- The position register file (R31): the written entries as pairs of an index and a position, in the one
canonical form that `Memory.wf` (Ops.lean) checks. An index that is not listed is unwritten. -/
abbrev Memory := List (Nat × Pos)

/-- The state. `cfg`, `inputs`, `draws` are the model's own fields (log 1, log 2); the registers are those of
10_state.md sections 2 to 4; the ports hold the values of the step just taken (section 6; log 21); the two
streams are those of 20_memory.md R50. -/
structure State where
  /-- the configuration record, fixed for the run (R35) -/
  cfg : Config
  /-- program counter: sequencer or host-interface state (R21, R22) -/
  seq : SeqState
  /-- program counter: operation-engine state (R21, R23) -/
  op : OpState
  /-- the current endpoint (R24) -/
  ep : Endpoint
  /-- the channel counter (R25) -/
  ch : BitVec 5
  /-- the index of the next byte of a frame (R26) -/
  k : BitVec 2
  /-- the outbound frame in flight (R27) -/
  frm : Frame
  /-- its length (R27) -/
  flen : BitVec 3
  /-- the channel echo of the response being received (R28) -/
  rxb0 : Byte
  /-- its higher byte (R28) -/
  rxb1 : Byte
  /-- the Variant 2 delay counter (R29, R212) -/
  dcnt : BitVec 32
  /-- consecutive not-ready steps of the current byte transfer (R30) -/
  wcnt : Nat
  /-- unsuccessful arrival tests of the current phase (R32) -/
  pcnt : Nat
  /-- the cause that halted the block, `none` while running (R33) -/
  err : Option HaltCause
  /-- the channel of the last FBRECV, `none` = written flag 0 (R34) -/
  resCh : Option (BitVec 5)
  /-- the position of the last FBRECV (R34) -/
  resPos : Option Pos
  /-- the result of the last ARRTEST (R34) -/
  resArr : Option Bool
  /-- the position register file with its written flags (R31) -/
  pf : Memory
  /-- input ports: the values sampled in this step (R36, R37) -/
  env : Env
  /-- output ports `tx_valid` and `tx_data`: the byte handed over in this step (R36) -/
  tx : Option Byte
  /-- output port `rx_take` (R36) -/
  rxTake : Bool
  /-- output port `cmd_accept` (R37) -/
  cmdAccept : Bool
  /-- the outbound stream so far, oldest byte first (R50, R52) -/
  outbound : List Byte
  /-- the bytes taken from the inbound stream so far, oldest first (R50, R53) -/
  inbound : List Byte
  /-- the environment's choices for the coming steps, next first (R20; log 2) -/
  inputs : List Env
  /-- steps taken: the counter that free values are applied to (log 2) -/
  draws : Nat
deriving DecidableEq, Repr

/-- Why the machine stops with a fault: never. What the spec calls a fault is a state of the block, S_FAULT,
which it describes and which reset leaves (60_exceptions.md R203, R208), so it is a next state (log 12). Safe. -/
inductive Fault where
deriving DecidableEq, Repr

/-- Why there is no meaning. -/
inductive Refusal where
  /-- raised by an arm of `exec` for an instruction that has no meaning yet; no arm raises it. Safe. -/
  | notModelled (mnemonic : String)
  /-- raised by the sequencer's step in SEQ mode with `seq = H_IDLE`, for which 43_motion_sequencer.md has no
  rule; no step from a state of the invariant `Inv` gets there (log 13). Safe. -/
  | noSequencerRule
deriving DecidableEq, Repr

/-- `seq` after reset: S_WARM in SEQ mode, H_IDLE in DIRECT mode (R42, R231). -/
def SeqState.atReset : Mode → SeqState
  | .seq => .warm
  | .direct => .hIdle

/-- The state after reset under a configuration (R42). `frm`, `flen`, `rxb`, `dcnt` are unspecified there
and 0 here (log 3); the fields that are not the block's are empty (log 4). -/
def State.resetFor (c : Config) : State :=
  { cfg := c, seq := SeqState.atReset c.mode, op := .idle, ep := .a, ch := 1, k := 0,
    frm := ⟨0, 0, 0, 0⟩, flen := 0, rxb0 := 0, rxb1 := 0, dcnt := 0, wcnt := 0, pcnt := 0,
    err := none, resCh := none, resPos := none, resArr := none, pf := [],
    env := Env.quiet, tx := none, rxTake := false, cmdAccept := false,
    outbound := [], inbound := [], inputs := [], draws := 0 }

/-- The state after reset under the default configuration (R42, R13 to R16; log 5). -/
def State.reset : State := State.resetFor Config.default

end Sys2Proof.Machine
end

