-- ==== Sys2Proof/Machine/Flags.lean ====
section
/-! DEFINITION. Conditions and status. The block has no flag register (10_state.md R39): these are the
conditions it tests, the codes of its state registers (R22, R23, R201) and its output ports (R36 to R38). -/

namespace Sys2Proof.Machine

/-- The comparison of an arrival test, at 16 bits (42_position_file.md R144). -/
def positionMatches (p : Pos) (t : BitVec 16) : Bool := decide (p.setWidth 16 = t)

/-- `wcnt + 1 == N` under BOUNDED(N) (R107). -/
def waitExpired : WaitPolicy → Nat → Bool
  | .infinite, _ => false
  | .bounded n, w => decide (w + 1 = n)

/-- `wcnt` after a not-ready step that halts nothing (R107). -/
def waitCount : WaitPolicy → Nat → Nat
  | .infinite, w => w
  | .bounded _, w => w + 1

/-- `pcnt + 1 == M` under ARRIVAL_POLL_LIMIT = M (R174). -/
def pollExpired : PollLimit → Nat → Bool
  | .unbounded, _ => false
  | .limit m, p => decide (p + 1 = m)

/-- `pcnt` after an unsuccessful test that halts nothing (R174). -/
def pollCount : PollLimit → Nat → Nat
  | .unbounded, p => p
  | .limit _, p => p + 1

/-- The 4-bit code of `seq` (R22). -/
def SeqState.code : SeqState → BitVec 4
  | .warm => 0x0
  | .waitPress => 0x1
  | .waitRelease => 0x2
  | .waitLow => 0x3
  | .issue => 0x4
  | .pollReq => 0x5
  | .pollResp => 0x6
  | .test => 0x7
  | .delay => 0x8
  | .hIdle => 0x9
  | .error => 0xE
  | .fault => 0xF

/-- The 2-bit code of `op` (R23). -/
def OpState.code : OpState → BitVec 2
  | .idle => 0
  | .tx => 1
  | .rx => 2

/-- The 1-bit code of `ep` (R24). -/
def Endpoint.code : Endpoint → BitVec 1
  | .a => 0
  | .b => 1

/-- The 3-bit code of a cause (R201). -/
def HaltCause.code : HaltCause → BitVec 3
  | .fChannel => 1
  | .fFbIndex => 2
  | .fFbPosition => 3
  | .fUnwritten => 4
  | .fArrIndex => 5
  | .eTimeout => 6
  | .eArrival => 7

/-- The halted state a cause leads to: a fault to S_FAULT, an error to S_ERROR (R201, R203, R204). -/
def HaltCause.haltState : HaltCause → SeqState
  | .fChannel => .fault
  | .fFbIndex => .fault
  | .fFbPosition => .fault
  | .fUnwritten => .fault
  | .fArrIndex => .fault
  | .eTimeout => .error
  | .eArrival => .error

/-- `seq ∈ {S_ERROR, S_FAULT}` (R38). -/
def SeqState.isHalted : SeqState → Bool
  | .error => true
  | .fault => true
  | _ => false

/-- Output `busy` (R38). -/
def State.busy (s : State) : Bool := decide (s.op ≠ .idle)

/-- Output `halted` (R38). -/
def State.halted (s : State) : Bool := s.seq.isHalted

/-- Output `faulted` (R38). -/
def State.faulted (s : State) : Bool := decide (s.seq = .fault)

/-- Output `err`, 0 while running (R33, R38). -/
def State.errCode (s : State) : BitVec 3 :=
  match s.err with
  | none => 0
  | some c => c.code

/-- Output `tx_valid` (R36). -/
def State.txValid (s : State) : Bool := s.tx.isSome

/-- Output `tx_data`: the byte handed over, a free value while `tx_valid` is 0 (R36; log 6). -/
def State.txData (s : State) : Byte := s.tx.getD (Config.freeTxData s.draws)

/-- The output ports (R36, R37, R38). -/
structure Outputs where
  txValid : Bool
  txData : Byte
  rxTake : Bool
  cmdAccept : Bool
  resCh : BitVec 5
  resChWritten : Bool
  resPos : Pos
  resPosWritten : Bool
  resArr : Bool
  resArrWritten : Bool
  busy : Bool
  halted : Bool
  faulted : Bool
  err : BitVec 3
deriving DecidableEq, Repr

/-- The output ports of a state: the command port's outputs are 0 in SEQ mode (R37); a result that was
never written holds no value, so its port is free (R34; log 7). -/
def State.outputs (s : State) : Outputs :=
  { txValid := s.txValid, txData := s.txData, rxTake := s.rxTake,
    cmdAccept := match s.cfg.mode with | .seq => false | .direct => s.cmdAccept
    resCh := match s.cfg.mode with | .seq => 0 | .direct => s.resCh.getD (Config.freeResCh s.draws)
    resChWritten := match s.cfg.mode with | .seq => false | .direct => s.resCh.isSome
    resPos := match s.cfg.mode with | .seq => 0 | .direct => s.resPos.getD (Config.freeResPos s.draws)
    resPosWritten := match s.cfg.mode with | .seq => false | .direct => s.resPos.isSome
    resArr := match s.cfg.mode with | .seq => false | .direct => s.resArr.getD (Config.freeResArr s.draws)
    resArrWritten := match s.cfg.mode with | .seq => false | .direct => s.resArr.isSome
    busy := s.busy, halted := s.halted, faulted := s.faulted, err := s.errCode }

end Sys2Proof.Machine
end

