-- ==== Sys2Proof/Syntax.lean ====
section
/-! DEFINITION. The instructions: one constructor for each row of spec/opcode_table.json, and the spec's
assembler notation (30_encoding.md R81). -/

namespace Sys2Proof

/-- One constructor for each row of the opcode table. An operand has exactly the bits its row reads;
bits a row ignores (R74, R76) are no operand. -/
inductive Instr where
  /-- `MOVE`: channel, position, speed (40_command_encoder.md R100). -/
  | move (c : BitVec 8) (p : BitVec 16) (sp : BitVec 8)
  /-- `FBREQ`: channel (41_feedback.md R120). -/
  | fbreq (c : BitVec 8)
  /-- `FBRECV`: no operand (41_feedback.md R124). -/
  | fbrecv
  /-- `ARRTEST`: file index, target (42_position_file.md R145). -/
  | arrtest (i : BitVec 8) (t : BitVec 16)
  /-- `FRAME_MOVE`: the 4-byte move frame sent (30_encoding.md R71). -/
  | frameMove (c h l sp : BitVec 6)
  /-- `FRAME_FBREQ`: the 2-byte request frame sent (30_encoding.md R75). -/
  | frameFbreq (c : BitVec 6)
  /-- `FRAME_FBRESP`: the 3-byte response frame received (30_encoding.md R76). -/
  | frameFbresp (e : BitVec 5) (h : BitVec 8) (l : BitVec 6)
deriving DecidableEq, Repr

/-- The four operations and two pseudo-operations of the assembler notation (R81). Operands are unsigned
numbers; WellFormed.lean checks that they fit. -/
inductive Asm where
  | move (ch pos spd : Nat)
  | fbreq (ch : Nat)
  | fbrecv
  | arrtest (idx target : Nat)
  | poll (ch : Nat)
  | moveall (pos spd : Nat)
deriving DecidableEq, Repr

end Sys2Proof
end

