-- ==== Sys2Proof/WellFormed.lean ====
section
/-! DEFINITION. Which terms are well formed. Every value of `Instr` is: its operands have the widths of
30_encoding.md R74, R71, R75 and R76 by type, and no value of them is an illegal encoding (R79: an illegal
channel, index or response is an instruction that faults). What has a check of its own is an assembler line,
whose operands are numbers (R81, R77), and the parameters of a configuration (`Params.legal`, Config.lean). -/

namespace Sys2Proof

/-- A channel or file index is 8 bits (R77). -/
def fitsChannel (n : Nat) : Bool := decide (n < 256)

/-- A position or target is 16 bits (R77). -/
def fitsValue (n : Nat) : Bool := decide (n < 65536)

/-- A speed is 8 bits (R77). -/
def fitsSpeed (n : Nat) : Bool := decide (n < 256)

/-- Every operand of the line fits the field of the command word it is assembled into (R77, R81). -/
def Asm.wf : Asm → Bool
  | .move ch pos spd => fitsChannel ch && fitsValue pos && fitsSpeed spd
  | .fbreq ch => fitsChannel ch
  | .fbrecv => true
  | .arrtest idx target => fitsChannel idx && fitsValue target
  | .poll ch => fitsChannel ch
  | .moveall pos spd => fitsValue pos && fitsSpeed spd

end Sys2Proof
end

