-- ==== Sys2Proof/Decode.lean ====
section
/-! DEFINITION. The decoder (30_encoding.md R70 to R78), total on any command word and any bytes, rejecting by
name; after it the encoder, the assembler (R81) and the opcode table's own numbering of a row's bits. -/

namespace Sys2Proof

/-! ### What is decoded -/

/-- An encoded instruction where the hardware holds it: a word on the command port, a whole frame on the
outbound link, a whole frame on the inbound link; a frame's bytes in link order (R55, R70). -/
inductive Encoded where
  | command (w : CmdWord)
  | outbound (bytes : List Byte)
  | inbound (bytes : List Byte)
deriving DecidableEq, Repr

/-- Why bytes are no frame. -/
inductive DecodeError where
  /-- an outbound frame is 4 or 2 bytes, an inbound one 3 (R70) -/
  | badLength
  /-- a wire channel byte is `0 1 c5..c0` (R71, R72) -/
  | notWireChannel
  /-- bytes 1 to 3 of a MOVE frame have bits 7..6 clear (R71, R73) -/
  | notSixBits
  /-- a request frame starts with `0x40` (R75) -/
  | notRequestMarker
  /-- no outbound frame starts with 0x00..0x3F or 0x80..0xFF (R78) -/
  | notFirstByte
deriving DecidableEq, Repr

/-! ### Fields -/

/-- `w[33:32]` (R74). -/
def cmdOp (w : CmdWord) : BitVec 2 := w.extractLsb' 32 2
/-- `w[31:24]` (R74). -/
def cmdCh (w : CmdWord) : BitVec 8 := w.extractLsb' 24 8
/-- `w[23:8]` (R74). -/
def cmdVal (w : CmdWord) : BitVec 16 := w.extractLsb' 8 16
/-- `w[7:0]` (R74). -/
def cmdSpd (w : CmdWord) : BitVec 8 := w.extractLsb' 0 8

/-- Bits 7..6 of a link byte. -/
def topTwo (b : Byte) : BitVec 2 := b.extractLsb' 6 2
/-- Bits 5..0 of a link byte. -/
def lowSix (b : Byte) : BitVec 6 := b.extractLsb' 0 6
/-- Bits 4..0 of a link byte: the channel of an echo, `e & 0x1F` (R76). -/
def lowFive (b : Byte) : BitVec 5 := b.extractLsb' 0 5

/-- The channel bits of a wire channel byte `0 1 c5..c0` (R71, R75). -/
def wireChannelBits (b : Byte) : Except DecodeError (BitVec 6) :=
  if topTwo b = 1#2 then .ok (lowSix b) else .error .notWireChannel

/-- The six bits of a byte `0 0 x5..x0` (R71). -/
def sixBits (b : Byte) : Except DecodeError (BitVec 6) :=
  if topTwo b = 0#2 then .ok (lowSix b) else .error .notSixBits

/-! ### Decoding -/

/-- A command word: every value of `op` selects an operation (R74, R77). -/
def decodeCommand (w : CmdWord) : Instr :=
  if cmdOp w = 0#2 then .move (cmdCh w) (cmdVal w) (cmdSpd w)
  else if cmdOp w = 1#2 then .fbreq (cmdCh w)
  else if cmdOp w = 2#2 then .fbrecv
  else .arrtest (cmdCh w) (cmdVal w)

/-- A MOVE frame (R71). -/
def decodeMoveFrame (b0 b1 b2 b3 : Byte) : Except DecodeError Instr :=
  match wireChannelBits b0, sixBits b1, sixBits b2, sixBits b3 with
  | .ok c, .ok h, .ok l, .ok sp => .ok (.frameMove c h l sp)
  | .error e, _, _, _ => .error e
  | _, .error e, _, _ => .error e
  | _, _, .error e, _ => .error e
  | _, _, _, .error e => .error e

/-- An FBREQ frame (R75). -/
def decodeFbreqFrame (b0 b1 : Byte) : Except DecodeError Instr :=
  if b0 = 0x40#8 then
    match wireChannelBits b1 with
    | .ok c => .ok (.frameFbreq c)
    | .error e => .error e
  else .error .notRequestMarker

/-- An FBRESP frame: any three bytes are one; the bits R76 ignores are dropped. -/
def decodeFbrespFrame (e h l : Byte) : Instr := .frameFbresp (lowFive e) h (lowSix l)

/-- The decoder. An outbound frame is known by its length, for the block knows what it issued (R78). -/
def decode : Encoded → Except DecodeError Instr
  | .command w => .ok (decodeCommand w)
  | .outbound [b0, b1, b2, b3] => decodeMoveFrame b0 b1 b2 b3
  | .outbound [b0, b1] => decodeFbreqFrame b0 b1
  | .outbound _ => .error .badLength
  | .inbound [e, h, l] => .ok (decodeFbrespFrame e h l)
  | .inbound _ => .error .badLength

/-- What a receiver of the outbound stream can do (R78; log 22): it goes by the first byte alone. 0x40 starts a
2-byte request, any other first byte in 0x41..0x7F a 4-byte move frame, no other byte a frame. It answers the frame's
bytes, whatever they are, and the rest; `decode` says what the frame is, if it is one (R243: a move frame for channel
0 is received as two bytes that are no request, and two stray bytes). -/
def receiveOutbound : List Byte → Except DecodeError (List Byte × List Byte)
  | [] => .error .badLength
  | b :: rest =>
    if b = 0x40#8 then
      match rest with
      | b1 :: rest' => .ok ([b, b1], rest')
      | _ => .error .badLength
    else if topTwo b = 1#2 then
      match rest with
      | b1 :: b2 :: b3 :: rest' => .ok ([b, b1, b2, b3], rest')
      | _ => .error .badLength
    else .error .notFirstByte

/-! ### Encoding -/

/-- The command word of its four fields (R74). -/
def commandWord (op : BitVec 2) (ch : BitVec 8) (val : BitVec 16) (spd : BitVec 8) : CmdWord :=
  ((op ++ ch) ++ val) ++ spd

/-- The wire channel byte `0 1 c5..c0` of six channel bits (R71). -/
def wireByte (c : BitVec 6) : Byte := 0x40#8 ||| c.setWidth 8

/-- The byte `0 0 x5..x0` of six bits (R71). -/
def plainByte (x : BitVec 6) : Byte := x.setWidth 8

/-- The encoder. A field that a row ignores is encoded as 0 (R74, R76: any bits may stand there; log 23). -/
def encode : Instr → Encoded
  | .move c p sp => .command (commandWord 0#2 c p sp)
  | .fbreq c => .command (commandWord 1#2 c 0#16 0#8)
  | .fbrecv => .command (commandWord 2#2 0#8 0#16 0#8)
  | .arrtest i t => .command (commandWord 3#2 i t 0#8)
  | .frameMove c h l sp => .outbound [wireByte c, plainByte h, plainByte l, plainByte sp]
  | .frameFbreq c => .outbound [0x40#8, wireByte c]
  | .frameFbresp e h l => .inbound [e.setWidth 8, h, plainByte l]

/-- The length of an encoding in bits (R70). -/
def Encoded.bits : Encoded → Nat
  | .command _ => 34
  | .outbound bytes => 8 * bytes.length
  | .inbound bytes => 8 * bytes.length

/-! ### Assembling -/

/-- One MOVE line, its operands assembled unsigned and unscaled (R77, R81). -/
def asmMove (ch pos spd : Nat) : Instr := .move (BitVec.ofNat 8 ch) (BitVec.ofNat 16 pos) (BitVec.ofNat 8 spd)

/-- An assembler line as the operations it stands for, none where an operand does not fit (R81; log 24):
`POLL` is FBREQ then FBRECV; `MOVEALL` is MOVE for channels 1 to 16 ascending. -/
def assemble (a : Asm) : Option (List Instr) :=
  if a.wf then
    match a with
    | .move ch pos spd => some [asmMove ch pos spd]
    | .fbreq ch => some [.fbreq (BitVec.ofNat 8 ch)]
    | .fbrecv => some [.fbrecv]
    | .arrtest idx target => some [.arrtest (BitVec.ofNat 8 idx) (BitVec.ofNat 16 target)]
    | .poll ch => some [.fbreq (BitVec.ofNat 8 ch), .fbrecv]
    | .moveall pos spd => some ((List.range numCh).map fun j => asmMove (j + 1) pos spd)
  else none

/-! ### The assembler's text (R81) -/

/-- A digit of a decimal or `0x` number. -/
def digitValue (c : Char) : Option Nat :=
  if '0'.toNat ≤ c.toNat ∧ c.toNat ≤ '9'.toNat then some (c.toNat - '0'.toNat)
  else if 'a'.toNat ≤ c.toNat ∧ c.toNat ≤ 'f'.toNat then some (c.toNat - 'a'.toNat + 10)
  else if 'A'.toNat ≤ c.toNat ∧ c.toNat ≤ 'F'.toNat then some (c.toNat - 'A'.toNat + 10)
  else none

/-- The digits of a number in a base, the value of those before them in `acc`. -/
def parseDigits (base acc : Nat) : List Char → Option Nat
  | [] => some acc
  | c :: cs =>
    match digitValue c with
    | some d => if d < base then parseDigits base (base * acc + d) cs else none
    | none => none

/-- An unsigned number, decimal or `0x` hexadecimal. -/
def parseNumber : List Char → Option Nat
  | [] => none
  | '0' :: 'x' :: d :: ds => parseDigits 16 0 (d :: ds)
  | d :: ds => parseDigits 10 0 (d :: ds)

/-- The pieces between separators. -/
def pieces (sep : Char) (l : List Char) : List (List Char) :=
  l.foldr (fun c acc =>
    if c = sep then [] :: acc
    else match acc with
      | [] => [[c]]
      | w :: ws => (c :: w) :: ws) [[]]

/-- Without the spaces at both ends. -/
def trimmed (l : List Char) : List Char :=
  ((l.dropWhile (· = ' ')).reverse.dropWhile (· = ' ')).reverse

/-- The operands of a line, separated by commas. -/
def parseOperands (l : List Char) : List (Option Nat) := (pieces ',' l).map fun w => parseNumber (trimmed w)

/-- One line without its comment: a mnemonic, then operands. -/
def parseOperation (l : List Char) : Option Asm :=
  let word := l.takeWhile (· ≠ ' ')
  let rest := trimmed (l.dropWhile (· ≠ ' '))
  if word = ['F', 'B', 'R', 'E', 'C', 'V'] then if rest = [] then some .fbrecv else none
  else match parseOperands rest with
    | [some a] =>
      if word = ['F', 'B', 'R', 'E', 'Q'] then some (.fbreq a)
      else if word = ['P', 'O', 'L', 'L'] then some (.poll a)
      else none
    | [some a, some b] =>
      if word = ['A', 'R', 'R', 'T', 'E', 'S', 'T'] then some (.arrtest a b)
      else if word = ['M', 'O', 'V', 'E', 'A', 'L', 'L'] then some (.moveall a b)
      else none
    | [some a, some b, some c] => if word = ['M', 'O', 'V', 'E'] then some (.move a b c) else none
    | _ => none

/-- A text of one operation per line, `;` starting a comment, as the operations it stands for; a line with nothing
but a comment stands for none. None where a line is no operation or an operand does not fit (log 24). -/
def assembleText (text : List Char) : Option (List Instr) :=
  (pieces '\n' text).foldr (fun line acc =>
    let l := trimmed (line.takeWhile (· ≠ ';'))
    if l = [] then acc
    else match parseOperation l, acc with
      | some a, some rest => (assemble a).map (· ++ rest)
      | _, _ => none) (some [])

/-! ### The opcode table's numbering -/

/-- Byte j of a frame of n bytes whose bits spec/opcode_table.json numbers as ONE number: the first byte of
the frame stands highest (the row's fields: FRAME_MOVE has c at 29..24; log 10). -/
def tableByte (n w j : Nat) : Byte := BitVec.ofNat 8 (w >>> (8 * (n - 1 - j)))

/-- The encoded instruction of a table row of nbits bits (in whole bytes): 16, 24 and 32 are the three
frames, more than 32 the 34-bit command word (R70); none where no row has that length or a command word
has a bit above bit 33. -/
def tableEncoded (nbits w : Nat) : Option Encoded :=
  if nbits = 16 then some (.outbound [tableByte 2 w 0, tableByte 2 w 1])
  else if nbits = 24 then some (.inbound [tableByte 3 w 0, tableByte 3 w 1, tableByte 3 w 2])
  else if nbits = 32 then some (.outbound [tableByte 4 w 0, tableByte 4 w 1, tableByte 4 w 2, tableByte 4 w 3])
  else if 32 < nbits ∧ w < 2 ^ 34 then some (.command (BitVec.ofNat 34 w))
  else none

/-- The instruction the decoder reads from a table word; none where it refuses. -/
def decodeTableWord (nbits w : Nat) : Option Instr :=
  match tableEncoded nbits w with
  | some x => (decode x).toOption
  | none => none

end Sys2Proof
end

