-- ==== Sys2Proof/Machine/Operands.lean ====
section
/-! DEFINITION. Operand forms: the channel check, the fields and frames of MOVE and FBREQ (40_command_encoder.md,
30_encoding.md R71 to R75), the decoding of a response (41_feedback.md R128, R129), the targets. No state. -/

namespace Sys2Proof.Machine

/-- The channel check raises nothing (R102): below 0x80, and under CHECKED within 1..CH_WIRE_MAX. -/
def channelOk (rc : RangeCheck) (c : BitVec 8) : Bool :=
  if 0x80#8 ≤ c then false
  else match rc with
    | .checked => decide (1#8 ≤ c) && decide (c ≤ chWireMax)
    | .unchecked => true

/-- `wire(c) = c | 0x40` (R72). -/
def wire (c : BitVec 8) : Byte := c ||| 0x40#8

/-- `higher = (pos >> 6) & 0x3F` (R73). -/
def higher (p : BitVec 16) : Byte := ((p >>> 6) &&& 0x3F#16).setWidth 8

/-- `lower = pos & 0x3F` (R73). -/
def lower (p : BitVec 16) : Byte := (p &&& 0x3F#16).setWidth 8

/-- `ramp = spd & 0x3F` (R73). -/
def ramp (sp : BitVec 8) : Byte := sp &&& 0x3F#8

/-- The four bytes of a MOVE frame (R71, R101). -/
def moveFrame (c : BitVec 8) (p : BitVec 16) (sp : BitVec 8) : Frame :=
  ⟨wire c, higher p, lower p, ramp sp⟩

/-- The pure encoding function (R104). -/
def encodeMove (rc : RangeCheck) (c : BitVec 8) (p : BitVec 16) (sp : BitVec 8) : Option Frame :=
  if channelOk rc c then some (moveFrame c p sp) else none

/-- Latching a request writes `frm[0]` and `frm[1]` only (R121). -/
def requestFrame (old : Frame) (c : BitVec 8) : Frame := { old with b0 := 0x40#8, b1 := wire c }

/-- `frm[k]` (R106). -/
def Frame.byte (f : Frame) (k : BitVec 2) : Byte :=
  if k = 0#2 then f.b0 else if k = 1#2 then f.b1 else if k = 2#2 then f.b2 else f.b3

/-- `idx := e & 0x1F` (R128), 5 bits. -/
def responseIndex (e : Byte) : BitVec 5 := (e &&& 0x1F#8).setWidth 5

/-- `pos := (zext_14(h) << 6) | zext_14(l & 0x3F)` (R128), 14 bits. -/
def responsePosition (h l : Byte) : BitVec 14 := (h.setWidth 14 <<< 6) ||| (l &&& 0x3F#8).setWidth 14

/-- An index with an entry: 1..NUM_CH (R31, R128). -/
def hasEntry (idx : Nat) : Bool := decide (1 ≤ idx) && decide (idx ≤ numCh)

/-- The checks of R128 in the order of R206, and the pair they let through. -/
def decodeResponse (e h l : Byte) : Except HaltCause (BitVec 5 × Pos) :=
  if hasEntry (responseIndex e).toNat = false then .error .fFbIndex
  else if 4095#14 < responsePosition h l then .error .fFbPosition
  else .ok (responseIndex e, (responsePosition h l).setWidth 12)

/-- The pure decoding function (R129). -/
def decodeFeedback (e h l : Byte) : Option (BitVec 5 × Pos) := (decodeResponse e h l).toOption

/-- `target(ep)` (R24). -/
def Endpoint.target (c : Config) : Endpoint → Pos
  | .a => c.posA
  | .b => c.posB

/-- `1 - ep` (R160). -/
def Endpoint.flip : Endpoint → Endpoint
  | .a => .b
  | .b => .a

/-- The continuation of the last warm-up move (R160 `idle_state`). -/
def idleState : Variant → SeqState
  | .v1Feedback => .waitPress
  | .v2Delay => .waitLow

/-- The continuation of the last move of a phase (R168). -/
def afterMoves : Variant → SeqState
  | .v1Feedback => .pollReq
  | .v2Delay => .delay

/-- The latched frame as an instruction of the table, by its length (R78); none where the bytes are no frame. -/
def latchedInstr (f : Frame) (n : BitVec 3) : Option Instr :=
  if n = 4#3 then (decode (.outbound [f.b0, f.b1, f.b2, f.b3])).toOption
  else if n = 2#3 then (decode (.outbound [f.b0, f.b1])).toOption
  else none

end Sys2Proof.Machine
end

