-- ==== Sys2Proof/Machine/Ops.lean ====
section
/-! DEFINITION. The shared operations: the position file's read and write ports, sampling the inputs, the link
primitives (20_memory.md R52, R53), halting (60_exceptions.md R203 to R205), waiting and the transmit step
(40_command_encoder.md R106, R107), the three issues (R101, R121, R125), reset (70_reset_and_hazards.md R230).
An operation that can halt answers `Except HaltCause State`: the state it would leave, or the cause. -/

namespace Sys2Proof.Machine

/-! ### The position register file -/

/-- What an index that is not listed reads as: nothing, `PFw[i] = 0` (R31, R143; log 17). -/
def Memory.unlisted : Option Pos := none

/-- Entry i, or nothing where it was never written (R142). -/
def Memory.read : Memory → Nat → Option Pos
  | [], _ => Memory.unlisted
  | (j, v) :: rest, i => if i = j then some v else Memory.read rest i

/-- Write entry i and mark it written, keeping the indices rising (R128). -/
def Memory.write : Memory → Nat → Pos → Memory
  | [], i, v => [(i, v)]
  | (j, w) :: rest, i, v =>
    if i < j then (i, v) :: (j, w) :: rest
    else if i = j then (i, v) :: rest
    else (j, w) :: Memory.write rest i v

/-- Every index is above `lo`, at most NUM_CH, and above the one before it. -/
def Memory.risesFrom : Nat → Memory → Bool
  | _, [] => true
  | lo, (j, _) :: rest => decide (lo < j) && decide (j ≤ numCh) && Memory.risesFrom j rest

/-- The canonical form: indices strictly rising within 1..NUM_CH (R31, R59). -/
def Memory.wf (m : Memory) : Bool := Memory.risesFrom 0 m

/-! ### Inputs, links, ports -/

/-- The input ports of the next step: the first listed choice, or a free one (R20; log 2). -/
def State.nextEnv (s : State) : Env :=
  match s.inputs with
  | [] => Config.freeEnv s.draws
  | e :: _ => e

/-- The start of a step: sample the inputs; no byte is handed over or taken yet (R20, R36). -/
def State.sample (s : State) : State :=
  { s with env := s.nextEnv, inputs := s.inputs.tail, draws := s.draws + 1,
           tx := none, rxTake := false, cmdAccept := false }

/-- `TxByte(b)` (R52). -/
def State.txByte (b : Byte) (s : State) : State :=
  { s with tx := some b, outbound := s.outbound ++ [b] }

/-- `RxByte()` takes the byte on `rx_data` (R53). -/
def State.rxByte (s : State) : State :=
  { s with rxTake := true, inbound := s.inbound ++ [s.env.rxData] }

/-- `cmd_accept <- 1` (R80). -/
def State.accept (s : State) : State := { s with cmdAccept := true }

/-! ### Halting: the block's one exception entry -/

/-- `raise Fault(code)` and `raise Error(code)` (R203, R204): `seq`, `op` and `err` are written, every other
register keeps its value (R205). The output ports are no registers: a byte taken shows on `rx_take`, and
`cmd_accept` is 1 in every step that took a command, one that faults too (R80, R37). -/
def State.halt (c : HaltCause) (s : State) : State :=
  { s with seq := c.haltState, op := .idle, err := some c }

/-- The end of a step's rule: what it wrote takes effect, or, where it raised a cause, nothing of it does and
the block halts from the state at the start of the step (R203, R204, R205). -/
def State.settle (s : State) : Except HaltCause State → State
  | .ok t => t
  | .error c => s.halt c

/-- Return from a halt, and from anything else: reset (R208, R230). The inputs, the two streams' past and the
configuration are not the block's to reset (R233; log 16). -/
def State.resetStep (s : State) : State :=
  { State.resetFor s.cfg with
    env := s.env, inputs := s.inputs, draws := s.draws, outbound := s.outbound, inbound := s.inbound }

/-! ### Waiting and sending -/

/-- `wait_tick()` (R107). -/
def State.waitTick (s : State) : Except HaltCause State :=
  if waitExpired s.cfg.waitPolicy s.wcnt then .error .eTimeout
  else .ok { s with wcnt := waitCount s.cfg.waitPolicy s.wcnt }

/-- The transmit engine's step on a frame of n bytes (R106). -/
def State.sendByte (f : Frame) (n : BitVec 3) (s : State) : Except HaltCause State :=
  if s.env.txReady then
    if s.k.setWidth 3 = n - 1#3 then
      .ok { s.txByte (f.byte s.k) with wcnt := 0, op := .idle, k := 0#2 }
    else
      .ok { s.txByte (f.byte s.k) with wcnt := 0, k := s.k + 1#2 }
  else s.waitTick

/-! ### Issuing an operation -/

/-- Latch a frame of n bytes and start sending it; `cont` is the state resumed in (R101, R121). -/
def State.startTx (f : Frame) (n : BitVec 3) (cont : SeqState) (s : State) : State :=
  { s with frm := f, flen := n, k := 0#2, wcnt := 0, op := .tx, seq := cont }

/-- `issue_move` (R101). -/
def State.issueMove (c : BitVec 8) (p : BitVec 16) (sp : BitVec 8) (cont : SeqState) (s : State) :
    Except HaltCause State :=
  if channelOk s.cfg.rangeCheck c then .ok (s.startTx (moveFrame c p sp) 4#3 cont) else .error .fChannel

/-- `issue_fbreq` (R121). -/
def State.issueFbreq (c : BitVec 8) (cont : SeqState) (s : State) : Except HaltCause State :=
  if channelOk s.cfg.rangeCheck c then .ok (s.startTx (requestFrame s.frm c) 2#3 cont) else .error .fChannel

/-- `issue_fbrecv` (R125). -/
def State.issueFbrecv (cont : SeqState) (s : State) : State :=
  { s with k := 0#2, wcnt := 0, op := .rx, seq := cont }

/-! ### The position file's two ports -/

/-- `decode_and_store` in the step that takes the third byte, and the end of the receive (R127, R128). -/
def State.decodeAndStore (e h l : Byte) (s : State) : Except HaltCause State :=
  match decodeResponse e h l with
  | .error c => .error c
  | .ok (idx, pos) =>
    .ok { s with pf := s.pf.write idx.toNat pos, resCh := some idx, resPos := some pos,
                 wcnt := 0, op := .idle, k := 0#2 }

/-- `read_pf(i)` (R142, R143). -/
def State.readPf (i : BitVec 5) (s : State) : Except HaltCause Pos :=
  match s.pf.read i.toNat with
  | some v => .ok v
  | none => .error .fUnwritten

/-- `arrived(i, t)` (R144). -/
def State.arrived (i : BitVec 5) (t : BitVec 16) (s : State) : Except HaltCause Bool :=
  match s.readPf i with
  | .ok v => .ok (positionMatches v t)
  | .error c => .error c

/-- `arrtest(i, t)`: the full 8-bit index is checked first (R145, R206). -/
def State.arrtest (i : BitVec 8) (t : BitVec 16) (s : State) : Except HaltCause State :=
  if hasEntry i.toNat then
    match s.arrived (i.setWidth 5) t with
    | .ok r => .ok { s with resArr := some r }
    | .error c => .error c
  else .error .fArrIndex

end Sys2Proof.Machine
end

