-- ==== Sys2Proof/Machine/Arrival.lean ====
section
/-! DEFINITION. The arrival test's instruction: ARRTEST (42_position_file.md). -/

namespace Sys2Proof.Machine

/-- `ARRTEST` from the command port: R145. -/
def execArrtest (i : BitVec 8) (t : BitVec 16) (s : State) : Host.Outcome State Fault Refusal :=
  .next (s.settle (s.arrtest i t))

end Sys2Proof.Machine
end

