-- ==== Sys2Proof/Machine/Encoder.lean ====
section
/-! DEFINITION. The command encoder's instructions: MOVE and the frame it sends (40_command_encoder.md). -/

namespace Sys2Proof.Machine

/-- `MOVE` from the command port: R100, R101; a host command resumes in H_IDLE (R80; log 18). -/
def execMove (c : BitVec 8) (p : BitVec 16) (sp : BitVec 8) (s : State) : Host.Outcome State Fault Refusal :=
  .next (s.settle (s.issueMove c p sp .hIdle))

/-- The four bytes of a MOVE frame (R71). -/
def moveFrameOf (c h l sp : BitVec 6) : Frame := ⟨wireByte c, plainByte h, plainByte l, plainByte sp⟩

/-- `FRAME_MOVE`: the transmit engine's step on this frame, byte k or a wait (R106, R107; log 9). -/
def execFrameMove (c h l sp : BitVec 6) (s : State) : Host.Outcome State Fault Refusal :=
  .next (s.settle (s.sendByte (moveFrameOf c h l sp) 4#3))

end Sys2Proof.Machine
end

