-- ==== Sys2Proof/Machine/Feedback.lean ====
section
/-! DEFINITION. The feedback requester's and decoder's instructions: FBREQ, FBRECV and the two frames they send
and receive (41_feedback.md). -/

namespace Sys2Proof.Machine

/-- `FBREQ` from the command port: R120, R121 (log 18). -/
def execFbreq (c : BitVec 8) (s : State) : Host.Outcome State Fault Refusal :=
  .next (s.settle (s.issueFbreq c .hIdle))

/-- `FBRECV` from the command port: R124, R125 (log 18). -/
def execFbrecv (s : State) : Host.Outcome State Fault Refusal :=
  .next (s.issueFbrecv .hIdle)

/-- The two bytes of a request frame in front of the two bytes latched before (R75, R121). -/
def requestFrameOf (old : Frame) (c : BitVec 6) : Frame := { old with b0 := 0x40#8, b1 := wireByte c }

/-- `FRAME_FBREQ`: the transmit engine's step on this frame (R106, R107; log 9). -/
def execFrameFbreq (c : BitVec 6) (s : State) : Host.Outcome State Fault Refusal :=
  .next (s.settle (s.sendByte (requestFrameOf s.frm c) 2#3))

/-- `FRAME_FBRESP`: the decoding of a whole response and its position-file write, in the step that has taken
its third byte (R127, R128; log 9). -/
def execFrameFbresp (e : BitVec 5) (h : BitVec 8) (l : BitVec 6) (s : State) : Host.Outcome State Fault Refusal :=
  .next (s.settle (s.decodeAndStore (e.setWidth 8) h (l.setWidth 8)))

end Sys2Proof.Machine
end

