-- ==== Sys2Proof/Machine/Dispatch.lean ====
section
/-! DEFINITION. One arm for each instruction. -/

namespace Sys2Proof.Machine

def exec (i : Instr) (s : State) : Host.Outcome State Fault Refusal :=
  match i with
  | .move c p sp => Sys2Proof.Machine.execMove c p sp s
  | .fbreq c => Sys2Proof.Machine.execFbreq c s
  | .fbrecv => Sys2Proof.Machine.execFbrecv s
  | .arrtest j t => Sys2Proof.Machine.execArrtest j t s
  | .frameMove c h l sp => Sys2Proof.Machine.execFrameMove c h l sp s
  | .frameFbreq c => Sys2Proof.Machine.execFrameFbreq c s
  | .frameFbresp e h l => Sys2Proof.Machine.execFrameFbresp e h l s

end Sys2Proof.Machine
end

