-- ==== Sys2Proof/Machine/Sequencer.lean ====
section
/-! DEFINITION. The motion sequencer (43_motion_sequencer.md): one definition for each `seq` state, each a step
taken in SEQ mode with `op = OP_IDLE` and the inputs already sampled. -/

namespace Sys2Proof.Machine

/-- `start_phase()` (R160). -/
def State.startPhase (s : State) : State := { s with ep := .a, ch := 1#5, pcnt := 0, seq := .issue }

/-- `next_phase()` (R160). -/
def State.nextPhase (s : State) : State := { s with ep := s.ep.flip, ch := 1#5, pcnt := 0, seq := .issue }

/-- `S_WARM` (R161). -/
def State.warmStep (s : State) : Except HaltCause State :=
  if s.ch.toNat < numCh then
    (s.issueMove (s.ch.setWidth 8) (s.cfg.posWarmup.setWidth 16) warmupSpeed .warm).map
      fun t => { t with ch := s.ch + 1#5 }
  else
    (s.issueMove 16#8 (s.cfg.posWarmup.setWidth 16) warmupSpeed (idleState s.cfg.variant)).map
      fun t => { t with ch := 1#5 }

/-- `S_WAIT_PRESS` (R163). -/
def State.waitPressStep (s : State) : State := if s.env.startN then s else { s with seq := .waitRelease }

/-- `S_WAIT_RELEASE` (R164). -/
def State.waitReleaseStep (s : State) : State := if s.env.startN then s.startPhase else s

/-- `S_WAIT_LOW` (R165). -/
def State.waitLowStep (s : State) : State := if s.env.startN then s else s.startPhase

/-- `dcnt <- DELAY_BUDGET` with the last move of a phase, in Variant 2 only (R168). -/
def loadDelay (c : Config) (old : BitVec 32) : BitVec 32 :=
  match c.variant with
  | .v1Feedback => old
  | .v2Delay => c.delayBudget

/-- `S_ISSUE` (R168). -/
def State.issueStep (s : State) : Except HaltCause State :=
  if s.ch.toNat < numCh then
    (s.issueMove (s.ch.setWidth 8) ((s.ep.target s.cfg).setWidth 16) (s.cfg.speedMove.setWidth 8) .issue).map
      fun t => { t with ch := s.ch + 1#5 }
  else
    (s.issueMove 16#8 ((s.ep.target s.cfg).setWidth 16) (s.cfg.speedMove.setWidth 8)
      (afterMoves s.cfg.variant)).map
      fun t => { t with ch := 1#5, dcnt := loadDelay s.cfg s.dcnt }

/-- `S_POLL_REQ` (R172). -/
def State.pollReqStep (s : State) : Except HaltCause State := s.issueFbreq sentinelCh .pollResp

/-- `S_POLL_RESP` (R173). -/
def State.pollRespStep (s : State) : State := s.issueFbrecv .test

/-- `S_TEST` (R174): `F_UNWRITTEN` first, then `E_ARRIVAL` (R206). -/
def State.testStep (s : State) : Except HaltCause State :=
  match s.arrived (sentinelCh.setWidth 5) ((s.ep.target s.cfg).setWidth 16) with
  | .error c => .error c
  | .ok true => .ok s.nextPhase
  | .ok false =>
    if pollExpired s.cfg.pollLimit s.pcnt then .error .eArrival
    else .ok { s with pcnt := pollCount s.cfg.pollLimit s.pcnt, seq := .pollReq }

/-- `S_DELAY` (R175). -/
def State.delayStep (s : State) : State := if s.dcnt = 0#32 then s.nextPhase else { s with dcnt := s.dcnt - 1#32 }

/-- The sequencer's step (R160). There is no rule for `seq = H_IDLE` in SEQ mode (log 13); a halted block
takes no step (R203, R204). -/
def seqStep (s : State) : Host.Outcome State Fault Refusal :=
  match s.seq with
  | .warm => .next (s.settle s.warmStep)
  | .waitPress => .next s.waitPressStep
  | .waitRelease => .next s.waitReleaseStep
  | .waitLow => .next s.waitLowStep
  | .issue => .next (s.settle s.issueStep)
  | .pollReq => .next (s.settle s.pollReqStep)
  | .pollResp => .next s.pollRespStep
  | .test => .next (s.settle s.testStep)
  | .delay => .next s.delayStep
  | .hIdle => .refused .noSequencerRule
  | .error => .next s
  | .fault => .next s

end Sys2Proof.Machine
end

