-- ==== Sys2Proof/Machine/Cycle.lean ====
section
/-! DEFINITION. One step once its inputs are sampled (10_state.md R20): reset, halted, the operation engine, the
sequencer or the host port; and how an instruction is placed where the next step runs it (log 11). -/

namespace Sys2Proof.Machine

/-- The transmit engine (R106): it runs the latched frame. Where the latched bytes are no frame of the table
(no state a run reaches), R106 is applied to the bytes as they stand (log 20). -/
def txEngine (s : State) : Host.Outcome State Fault Refusal :=
  match latchedInstr s.frm s.flen with
  | some i => exec i s
  | none => .next (s.settle (s.sendByte s.frm s.flen))

/-- The receive engine (R127): the third byte completes a response frame, which runs. -/
def rxEngine (s : State) : Host.Outcome State Fault Refusal :=
  if s.env.rxReady then
    if s.k = 0#2 then .next { s.rxByte with wcnt := 0, rxb0 := s.env.rxData, k := 1#2 }
    else if s.k = 1#2 then .next { s.rxByte with wcnt := 0, rxb1 := s.env.rxData, k := 2#2 }
    else exec (decodeFbrespFrame s.rxb0 s.rxb1 s.env.rxData) s.rxByte
  else .next (s.settle s.waitTick)

/-- The host step (R80). -/
def hostStep (s : State) : Host.Outcome State Fault Refusal :=
  if s.env.cmdValid then exec (decodeCommand s.env.cmdWord) s.accept else .next s

/-- The step relation of R20 on a state whose inputs are sampled. -/
def cycle (s : State) : Host.Outcome State Fault Refusal :=
  if s.env.rst then .next s.resetStep
  else if s.halted then .next s
  else match s.op with
    | .tx => txEngine s
    | .rx => rxEngine s
    | .idle => match s.cfg.mode with
      | .seq => seqStep s
      | .direct => hostStep s

/-! ### Placing an instruction -/

/-- The state with the next step's inputs changed by f. -/
def State.mapNextEnv (f : Env → Env) (s : State) : State := { s with inputs := f s.nextEnv :: s.inputs.tail }

/-- A block that is not halted: a halted one is taken back to its reset state `seq` (R20: only such a block
takes a step). -/
def State.unhalt (s : State) : State :=
  { s with seq := if s.halted then SeqState.atReset s.cfg.mode else s.seq }

/-- DIRECT mode, ready for a command (R80). -/
def State.hostReady (s : State) : State :=
  { s with cfg := { s.cfg with mode := .direct }, seq := .hIdle, op := .idle }

/-- Place an encoded instruction where the next step runs it: a command word on the command port of a block
in DIRECT mode; an outbound frame in `frm` with its first byte due and the link ready; a response with its
first two bytes in `rxb` and the third on the link. -/
def State.place (s : State) : Encoded → State
  | .command w => s.hostReady.mapNextEnv fun e => { e with rst := false, cmdValid := true, cmdWord := w }
  | .outbound [b0, b1, b2, b3] =>
    { s.unhalt with frm := ⟨b0, b1, b2, b3⟩, flen := 4#3, k := 0#2, op := .tx }.mapNextEnv
      fun e => { e with rst := false, txReady := true }
  | .outbound [b0, b1] =>
    { s.unhalt with frm := { s.frm with b0 := b0, b1 := b1 }, flen := 2#3, k := 0#2, op := .tx }.mapNextEnv
      fun e => { e with rst := false, txReady := true }
  | .outbound _ => s
  | .inbound [e, h, l] =>
    { s.unhalt with rxb0 := e, rxb1 := h, k := 2#2, op := .rx }.mapNextEnv
      fun v => { v with rst := false, rxReady := true, rxData := l }
  | .inbound _ => s

/-- The same for a word numbered as spec/opcode_table.json numbers it (log 10, log 11). -/
def State.placeTableWord (s : State) (nbits w : Nat) : State :=
  match tableEncoded nbits w with
  | some x => s.place x
  | none => s

end Sys2Proof.Machine
end

