-- ==== Sys2Proof/Machine/Step.lean ====
section
/-! DEFINITION. One step of the block (10_state.md R20): sample the inputs, then do the one thing the state at
the start of the step chooses. -/

namespace Sys2Proof.Machine

def step (s : State) : Host.Outcome State Fault Refusal := cycle s.sample

/-- The state whose very next step runs the instruction of a table word (Cycle.lean; log 11). -/
def State.withFetchWord (s : State) (nbits w : Nat) : State := s.placeTableWord nbits w

end Sys2Proof.Machine
end

