-- ==== Sys2Proof/Safety.lean ====
section
/-! DEFINITION. What claims are stated with: the launch premises (70_reset_and_hazards.md R235), final states
(R236), runs and the fairness premise (R237), the invariant `Inv` that every step keeps, the states of the
oscillation loop (43_motion_sequencer.md R177) and the bytes of a batch of moves (R178). -/

namespace Sys2Proof.Machine

/-! ### Launch premises and the end of a run -/

/-- `NoFault` (R235). -/
abbrev NoFault (s : State) : Prop := s.seq ≠ .fault ∧ s.err = none

/-- `Quiet` (R235). -/
abbrev Quiet (s : State) : Prop := s.op = .idle

/-- `ResetState` (R235), over the registers to which 10_state.md R42 gives a value; those it leaves
unspecified (`frm`, `flen`, `rxb`, `dcnt`) are not spoken of. -/
abbrev ResetState (s : State) : Prop :=
  s.seq = SeqState.atReset s.cfg.mode ∧ s.op = .idle ∧ s.ep = .a ∧ s.ch = 1 ∧ s.k = 0 ∧ s.wcnt = 0 ∧
  s.pcnt = 0 ∧ s.err = none ∧ s.resCh = none ∧ s.resPos = none ∧ s.resArr = none ∧ s.pf = [] ∧
  s.tx = none ∧ s.rxTake = false ∧ s.cmdAccept = false

/-- The host presents no further command (R236), in an environment that presents `e n` at the n-th coming step. -/
def NoFurtherCommand (e : Nat → Env) : Prop := ∀ n, (e n).cmdValid = false

/-- A final state of a run (R236) that goes on in the environment e: S_ERROR, or in DIRECT mode H_IDLE with no
operation in progress in which the host presents no further command. S_FAULT is never final; SEQ mode has no normal
end. -/
def Final (e : Nat → Env) (s : State) : Prop :=
  s.seq = .error ∨ (s.cfg.mode = .direct ∧ s.seq = .hIdle ∧ s.op = .idle ∧ NoFurtherCommand e)

/-- The environment that a state's own inputs make: those listed, then the free ones (log 2). `Final s.coming s` says
that the run of `step` from s has ended. -/
def State.coming (s : State) (n : Nat) : Env := s.inputs.getD n (Config.freeEnv (s.draws + n))

/-! ### Runs -/

/-- The state with an input presented for its next step. -/
def State.present (v : Env) (s : State) : State := { s with inputs := v :: s.inputs }

/-- An infinite run in an environment that presents `e n` at step n: each state is the step of the one before. -/
def IsRun (e : Nat → Env) (f : Nat → State) : Prop := ∀ n, step ((f n).present (e n)) = .next (f (n + 1))

/-- `TransportFair` (R237): whenever the block is in OP_TX, `tx_ready` is 1 in that or some later step;
whenever it is in OP_RX, `rx_ready` is. -/
def TransportFair (e : Nat → Env) (f : Nat → State) : Prop :=
  (∀ n, (f n).op = .tx → ∃ m, n ≤ m ∧ (e m).txReady = true) ∧
  (∀ n, (f n).op = .rx → ∃ m, n ≤ m ∧ (e m).rxReady = true)

/-- The run f in the environment e ends at step n (R236). -/
def EndsAt (e : Nat → Env) (f : Nat → State) (n : Nat) : Prop := Final (fun m => e (n + m)) (f n)

/-- No step of the run is a reset step. -/
def NoReset (e : Nat → Env) : Prop := ∀ n, (e n).rst = false

/-! ### The invariant -/

/-- The states `seq` may hold under a mode and a variant (R22, R160). -/
def seqAllowed (m : Mode) (v : Variant) : SeqState → Bool
  | .warm => decide (m = .seq)
  | .waitPress => decide (m = .seq ∧ v = .v1Feedback)
  | .waitRelease => decide (m = .seq ∧ v = .v1Feedback)
  | .waitLow => decide (m = .seq ∧ v = .v2Delay)
  | .issue => decide (m = .seq)
  | .pollReq => decide (m = .seq ∧ v = .v1Feedback)
  | .pollResp => decide (m = .seq ∧ v = .v1Feedback)
  | .test => decide (m = .seq ∧ v = .v1Feedback)
  | .delay => decide (m = .seq ∧ v = .v2Delay)
  | .hIdle => decide (m = .direct)
  | .error => true
  | .fault => true

/-- `seq` is a state of the selected mode and variant. -/
def State.seqLegal (s : State) : Bool := seqAllowed s.cfg.mode s.cfg.variant s.seq

/-- Every byte the channel check lets through as a wire channel (R72). -/
def wireLegal (rc : RangeCheck) (b : Byte) : Bool :=
  match rc with
  | .checked => decide (0x41#8 ≤ b) && decide (b ≤ 0x56#8)
  | .unchecked => decide (0x40#8 ≤ b) && decide (b ≤ 0x7F#8)

/-- The latched bytes are a frame the encoder makes: of four bytes (R71) or of two (R75). -/
def frameLegal (rc : RangeCheck) (f : Frame) (n : BitVec 3) : Bool :=
  if n = 4#3 then wireLegal rc f.b0 && decide (f.b1 ≤ 0x3F#8) && decide (f.b2 ≤ 0x3F#8) && decide (f.b3 ≤ 0x3F#8)
  else decide (n = 2#3) && decide (f.b0 = 0x40#8) && wireLegal rc f.b1

/-- A halted block is idle; an engine's frame and byte index are legal; between operations `k` is 0. -/
def State.engineLegal (s : State) : Bool :=
  match s.op with
  | .idle => s.halted || decide (s.k = 0#2)
  | .tx => !s.halted && frameLegal s.cfg.rangeCheck s.frm s.flen && decide (s.k.toNat < s.flen.toNat)
  | .rx => !s.halted && decide (s.k ≠ 3#2)

/-- `ch` holds a channel (R25). -/
def State.chLegal (s : State) : Bool := decide (1 ≤ s.ch.toNat) && decide (s.ch.toNat ≤ numCh)

/-- `wcnt` stays 0 under INFINITE and below N under BOUNDED(N) (R30, R107, R19). -/
def waitLegal : WaitPolicy → Nat → Bool
  | .infinite, w => decide (w = 0)
  | .bounded n, w => decide (w < n)

/-- `pcnt` stays 0 under UNBOUNDED and below M under a limit M (R32, R174, R19). -/
def pollLegal : PollLimit → Nat → Bool
  | .unbounded, p => decide (p = 0)
  | .limit m, p => decide (p < m)

/-- `err` holds a cause exactly while the block is halted, in the halted state of that cause (R33, R201). -/
def State.errLegal (s : State) : Bool :=
  match s.err with
  | none => !s.halted
  | some c => decide (s.seq = c.haltState)

/-- `res_ch` and `res_pos` are written together and `res_ch` names an entry (R34, R128). -/
def State.resLegal (s : State) : Bool :=
  match s.resCh with
  | none => decide (s.resPos = none)
  | some c => hasEntry c.toNat && s.resPos.isSome

/-- The invariant: what every state a run reaches meets. -/
abbrev Inv (s : State) : Prop :=
  s.pf.wf = true ∧ s.seqLegal = true ∧ s.engineLegal = true ∧ s.chLegal = true ∧
  waitLegal s.cfg.waitPolicy s.wcnt = true ∧ pollLegal s.cfg.pollLimit s.pcnt = true ∧
  s.errLegal = true ∧ s.resLegal = true

/-! ### Comparing two runs -/

/-- An outcome without the input ports' sampled values: what a step did, apart from what it was shown. -/
def forgetEnv : Host.Outcome State Fault Refusal → Host.Outcome State Fault Refusal
  | .next t => .next { t with env := Env.quiet }
  | .fault r => .fault r
  | .refused r => .refused r

/-! ### The oscillation loop -/

/-- The states of the loop (R177): S_ISSUE and, by variant, S_POLL_REQ, S_POLL_RESP, S_TEST or S_DELAY. -/
def loopState (v : Variant) : SeqState → Bool
  | .issue => true
  | .pollReq => decide (v = .v1Feedback)
  | .pollResp => decide (v = .v1Feedback)
  | .test => decide (v = .v1Feedback)
  | .delay => decide (v = .v2Delay)
  | _ => false

/-- The four bytes of the move frame of channel c to a position (R178): `0x40 | c`, `pos[11:6]`, `pos[5:0]`, speed. -/
def moveBytes (c : BitVec 6) (pos : Pos) (sp : BitVec 6) : List Byte :=
  [wireByte c, plainByte (pos.extractLsb' 6 6), plainByte (pos.extractLsb' 0 6), plainByte sp]

/-- The 64 bytes of sixteen moves, channels 1 to 16 in order (R178, R161). -/
def batchBytes (pos : Pos) (sp : BitVec 6) : List Byte :=
  (List.range numCh).flatMap fun j => moveBytes (BitVec.ofNat 6 (j + 1)) pos sp

/-- What an exchange from s that ends in t does where S_TEST does not find the target (R174), by ARRIVAL_POLL_LIMIT:
it polls again, or under a limit M halts with E_ARRIVAL at the M-th unsuccessful test. -/
def PolledInVain (s t : State) : Prop :=
  (s.cfg.pollLimit = .unbounded → t.seq = .pollReq ∧ t.ep = s.ep ∧ t.pcnt = s.pcnt) ∧
  (∀ m : Nat, s.cfg.pollLimit = .limit m →
    (s.pcnt + 1 = m → t.seq = .error ∧ t.err = some .eArrival) ∧
    (s.pcnt + 1 ≠ m → t.seq = .pollReq ∧ t.ep = s.ep ∧ t.pcnt = s.pcnt + 1))

/-- The next n steps' inputs are listed, none of them a reset, the link ready to send in each. -/
abbrev SendReady (n : Nat) (s : State) : Prop :=
  n ≤ s.inputs.length ∧ ∀ e ∈ s.inputs.take n, e.rst = false ∧ e.txReady = true

/-- The next n steps' inputs are listed, none of them a reset. -/
abbrev NoResetFor (n : Nat) (s : State) : Prop :=
  n ≤ s.inputs.length ∧ ∀ e ∈ s.inputs.take n, e.rst = false

end Sys2Proof.Machine
end

