-- ==== Sys2Proof/Certificates/Slice0/Obligations.lean ====
section
/-! DEFINITION. The statements for the provers. Each says which rule of spec/ it formalises. A register that a
statement's record does not name is unchanged. -/

open Sys2Proof Sys2Proof.Machine

/-! ### Encoding -/

/-- Words written out from the tables of 30_encoding.md R74, R71, R75, R76 decode to what they stand for. -/
def Obligations.TableWordsDecodeToTheirInstructions : Prop :=
  decode (.command 0x001051400) = .ok (.move 1 1300 0) ∧
  decode (.command 0x101FFFFFF) = .ok (.fbreq 1) ∧
  decode (.command 0x2FFFFFFFF) = .ok .fbrecv ∧
  decode (.command 0x3010514FF) = .ok (.arrtest 1 1300) ∧
  decode (.outbound [0x50, 0x2E, 0x38, 0x0A]) = .ok (.frameMove 16 0x2E 0x38 0x0A) ∧
  decode (.outbound [0x40, 0x56]) = .ok (.frameFbreq 22) ∧
  decode (.inbound [0xE1, 0x14, 0xFF]) = .ok (.frameFbresp 1 0x14 0x3F)

/-- Decode and encode agree on every instruction, at every value of its operands. -/
def Obligations.DecodeOfEncodeIsTheInstruction : Prop :=
  ∀ i : Instr, decode (encode i) = .ok i

/-- R74: `op` in bits 33..32 selects the operation, `ch` in 31..24, `val` in 23..8, `spd` in 7..0; every value of
`op` selects one; a field marked ignored may hold any bits; and every command word is of this form. -/
def Obligations.CommandWordFieldsSelectTheOperation : Prop :=
  (∀ (ch : BitVec 8) (val : BitVec 16) (spd : BitVec 8),
    decode (.command ((((0b00 : BitVec 2) ++ ch) ++ val) ++ spd)) = .ok (.move ch val spd) ∧
    decode (.command ((((0b01 : BitVec 2) ++ ch) ++ val) ++ spd)) = .ok (.fbreq ch) ∧
    decode (.command ((((0b10 : BitVec 2) ++ ch) ++ val) ++ spd)) = .ok .fbrecv ∧
    decode (.command ((((0b11 : BitVec 2) ++ ch) ++ val) ++ spd)) = .ok (.arrtest ch val)) ∧
  (∀ w : CmdWord, ∃ (op : BitVec 2) (ch : BitVec 8) (val : BitVec 16) (spd : BitVec 8),
    w = (((op ++ ch) ++ val) ++ spd))

/-- R78 (derived there, the receiver is no part of the block: log 22): a receiver of the outbound stream tells the
frames apart by the first byte, whatever follows: 0x40 is a 2-byte request, any other first byte of a frame starts a
4-byte move; a first byte in 0x00..0x3F or 0x80..0xFF starts none. R243: a move frame for channel 0 is received as a
2-byte request whose second byte is no wire channel byte, followed by two stray bytes. -/
def Obligations.ReceiverTellsFramesApart : Prop :=
  (∀ (c h l sp : BitVec 6) (rest : List Byte), c ≠ 0 →
    receiveOutbound ([wireByte c, plainByte h, plainByte l, plainByte sp] ++ rest) =
      .ok ([wireByte c, plainByte h, plainByte l, plainByte sp], rest) ∧
    decode (.outbound [wireByte c, plainByte h, plainByte l, plainByte sp]) = .ok (.frameMove c h l sp)) ∧
  (∀ (c : BitVec 6) (rest : List Byte),
    receiveOutbound ([0x40, wireByte c] ++ rest) = .ok ([0x40, wireByte c], rest) ∧
    decode (.outbound [0x40, wireByte c]) = .ok (.frameFbreq c)) ∧
  (∀ (b : Byte) (rest : List Byte), b.toNat < 0x40 ∨ 0x80 ≤ b.toNat →
    receiveOutbound (b :: rest) = .error .notFirstByte) ∧
  (∀ (h l sp : BitVec 6) (rest : List Byte),
    receiveOutbound ([wireByte 0, plainByte h, plainByte l, plainByte sp] ++ rest) =
      .ok ([0x40, plainByte h], [plainByte l, plainByte sp] ++ rest) ∧
    decode (.outbound [0x40, plainByte h]) = .error .notWireChannel)

/-- R81: POLL and MOVEALL expand as the table says. That a line whose operand does not fit its field is refused is
the model's choice (log 24). -/
def Obligations.AssemblerExpandsPseudoOperations : Prop :=
  (∀ ch : Nat, ch < 256 → assemble (.poll ch) = some [.fbreq (BitVec.ofNat 8 ch), .fbrecv]) ∧
  (∀ pos spd : Nat, pos < 65536 → spd < 256 → ∃ l : List Instr, assemble (.moveall pos spd) = some l ∧
    l.length = 16 ∧ ∀ j : Nat, j < 16 →
      l[j]? = some (.move (BitVec.ofNat 8 (j + 1)) (BitVec.ofNat 16 pos) (BitVec.ofNat 8 spd))) ∧
  (∀ ch : Nat, 256 ≤ ch → assemble (.fbreq ch) = none ∧ assemble (.poll ch) = none)

/-! ### The pure encoding and decoding functions -/

/-- R104, R73: the encoder's bytes as numbers, or none for a channel that R102 rejects. -/
def Obligations.EncodeMoveGivesTheFrameBytes : Prop :=
  ∀ (rc : RangeCheck) (c : BitVec 8) (p : BitVec 16) (sp : BitVec 8),
    ((c.toNat < 0x80 ∧ (rc = .checked → 1 ≤ c.toNat ∧ c.toNat ≤ 0x16)) →
      ∃ f : Frame, encodeMove rc c p sp = some f ∧
        f.b0.toNat = (if c.toNat < 0x40 then 0x40 + c.toNat else c.toNat) ∧
        f.b1.toNat = p.toNat / 64 % 64 ∧ f.b2.toNat = p.toNat % 64 ∧ f.b3.toNat = sp.toNat % 64) ∧
    (¬ (c.toNat < 0x80 ∧ (rc = .checked → 1 ≤ c.toNat ∧ c.toNat ≤ 0x16)) → encodeMove rc c p sp = none)

/-- R129: the decoder's pair as numbers: the echo modulo 32 and 64 · higher + lower modulo 64, where the
channel is in 1..16 and the position at most 4095; none otherwise. -/
def Obligations.DecodeFeedbackGivesChannelAndPosition : Prop :=
  ∀ e h l : Byte,
    ((1 ≤ e.toNat % 32 ∧ e.toNat % 32 ≤ 16 ∧ 64 * h.toNat + l.toNat % 64 ≤ 4095) →
      ∃ (c : BitVec 5) (p : Pos), decodeFeedback e h l = some (c, p) ∧
        c.toNat = e.toNat % 32 ∧ p.toNat = 64 * h.toNat + l.toNat % 64) ∧
    (¬ (1 ≤ e.toNat % 32 ∧ e.toNat % 32 ≤ 16 ∧ 64 * h.toNat + l.toNat % 64 ≤ 4095) →
      decodeFeedback e h l = none)

/-- R131: decoding the first three bytes of an encoded move gives the channel and the position back, and channel
recovery ignores the bits above bit 4. -/
def Obligations.ResponseOfEncodedMoveDecodesBack : Prop :=
  (∀ (rc : RangeCheck) (c : BitVec 8) (p : Pos) (sp : BitVec 8), 1 ≤ c.toNat → c.toNat ≤ 16 →
    ∃ f : Frame, encodeMove rc c (p.setWidth 16) sp = some f ∧
      decodeFeedback f.b0 f.b1 f.b2 = some (c.setWidth 5, p)) ∧
  (∀ x : Byte, responseIndex x = responseIndex (x &&& 0x1F) ∧ (responseIndex x).toNat = (x &&& 0x1F).toNat)

/-! ### A step runs the decoded instruction -/

/-- R80: in H_IDLE with no operation in progress a valid command is taken and run, with `cmd_accept` set; without
one only the ports and the inputs move on. -/
def Obligations.CommandIsTakenAndRun : Prop :=
  ∀ s : State, s.nextEnv.rst = false → s.cfg.mode = .direct → s.seq = .hIdle → s.op = .idle →
    (s.nextEnv.cmdValid = true →
      step s = exec (decodeCommand s.nextEnv.cmdWord) { s.sample with cmdAccept := true }) ∧
    (s.nextEnv.cmdValid = false → step s = .next s.sample)

/-- In OP_TX the step runs the latched frame: the engine's step of R106 as the meaning of the frame row, which is the
model's choice (log 9). -/
def Obligations.TransmitStepRunsTheLatchedFrame : Prop :=
  ∀ (s : State) (i : Instr), s.nextEnv.rst = false → s.halted = false → s.op = .tx →
    (s.flen = 4 → decode (.outbound [s.frm.b0, s.frm.b1, s.frm.b2, s.frm.b3]) = .ok i → step s = exec i s.sample) ∧
    (s.flen = 2 → decode (.outbound [s.frm.b0, s.frm.b1]) = .ok i → step s = exec i s.sample)

/-- In every state of the invariant the latched frame of an OP_TX step is a frame of the table, and runs; that the
step is exec of the frame row is the model's choice (log 9). -/
def Obligations.LatchedFrameIsAlwaysAFrame : Prop :=
  ∀ s : State, Inv s → s.nextEnv.rst = false → s.op = .tx →
    (∃ c h l sp : BitVec 6, s.flen = 4 ∧ s.frm = ⟨wireByte c, plainByte h, plainByte l, plainByte sp⟩ ∧
      step s = exec (.frameMove c h l sp) s.sample) ∨
    (∃ c : BitVec 6, s.flen = 2 ∧ s.frm.b0 = 0x40 ∧ s.frm.b1 = wireByte c ∧
      step s = exec (.frameFbreq c) s.sample)

/-- In OP_RX at k = 2 the third byte is taken (R127) and the response of the three bytes runs; that this is exec of the
frame row FRAME_FBRESP is the model's choice (log 9). -/
def Obligations.ThirdByteRunsTheResponse : Prop :=
  ∀ (s : State) (i : Instr), s.nextEnv.rst = false → s.halted = false → s.op = .rx → s.k = 2 →
    s.nextEnv.rxReady = true → decode (.inbound [s.rxb0, s.rxb1, s.nextEnv.rxData]) = .ok i →
    step s = exec i { s.sample with rxTake := true, inbound := s.inbound ++ [s.nextEnv.rxData] }

/-! ### The operations -/

/-- R101, R102: MOVE latches its frame and starts sending it, or halts with F_CHANNEL (R203) and sends nothing. exec's
MOVE is the host's command, so its continuation is R80's H_IDLE (log 18). -/
def Obligations.MoveLatchesItsFrameOrFaults : Prop :=
  ∀ (s : State) (c : BitVec 8) (p : BitVec 16) (sp : BitVec 8),
    ((c.toNat < 0x80 ∧ (s.cfg.rangeCheck = .checked → 1 ≤ c.toNat ∧ c.toNat ≤ 0x16)) →
      exec (.move c p sp) s = .next { s with
        frm := ⟨c ||| 0x40, plainByte (p.extractLsb' 6 6), plainByte (p.extractLsb' 0 6),
                plainByte (sp.extractLsb' 0 6)⟩,
        flen := 4, k := 0, wcnt := 0, op := .tx, seq := .hIdle }) ∧
    (¬ (c.toNat < 0x80 ∧ (s.cfg.rangeCheck = .checked → 1 ≤ c.toNat ∧ c.toNat ≤ 0x16)) →
      exec (.move c p sp) s = .next { s with
        seq := .fault, op := .idle, err := some .fChannel })

/-- R121, R102: FBREQ latches `0x40` and its wire channel, or halts with F_CHANNEL (R203); `frm[2]` and `frm[3]`
stay. exec's FBREQ is the host's command, so its continuation is R80's H_IDLE (log 18). -/
def Obligations.FbreqLatchesItsFrameOrFaults : Prop :=
  ∀ (s : State) (c : BitVec 8),
    ((c.toNat < 0x80 ∧ (s.cfg.rangeCheck = .checked → 1 ≤ c.toNat ∧ c.toNat ≤ 0x16)) →
      exec (.fbreq c) s = .next { s with
        frm := ⟨0x40, c ||| 0x40, s.frm.b2, s.frm.b3⟩,
        flen := 2, k := 0, wcnt := 0, op := .tx, seq := .hIdle }) ∧
    (¬ (c.toNat < 0x80 ∧ (s.cfg.rangeCheck = .checked → 1 ≤ c.toNat ∧ c.toNat ≤ 0x16)) →
      exec (.fbreq c) s = .next { s with
        seq := .fault, op := .idle, err := some .fChannel })

/-- R125: FBRECV starts the receive and takes no byte. exec's FBRECV is the host's command, so its continuation is R80's
H_IDLE (log 18). -/
def Obligations.FbrecvStartsTheReceive : Prop :=
  ∀ s : State, exec .fbrecv s = .next { s with k := 0, wcnt := 0, op := .rx, seq := .hIdle }

/-- R145, R144, R143: ARRTEST writes the exact comparison of the entry with the 16-bit target; it halts with
F_ARR_INDEX where the 8-bit index is not in 1..16, and then with F_UNWRITTEN where the entry is unwritten. -/
def Obligations.ArrtestComparesExactlyOrFaults : Prop :=
  ∀ (s : State) (i : BitVec 8) (t : BitVec 16),
    (∀ v : Pos, 1 ≤ i.toNat → i.toNat ≤ 16 → s.pf.read i.toNat = some v →
      exec (.arrtest i t) s = .next { s with resArr := some (decide (v.toNat = t.toNat)) }) ∧
    (1 ≤ i.toNat → i.toNat ≤ 16 → s.pf.read i.toNat = none →
      exec (.arrtest i t) s = .next { s with
        seq := .fault, op := .idle, err := some .fUnwritten }) ∧
    (i.toNat = 0 ∨ 17 ≤ i.toNat →
      exec (.arrtest i t) s = .next { s with
        seq := .fault, op := .idle, err := some .fArrIndex })

/-- R106, R71: with the link ready, running a MOVE frame hands byte k over in the order {channel, higher, lower,
speed}, and ends the operation after the fourth. That running the row is one step of the engine is the model's choice
(log 9). -/
def Obligations.MoveFrameSendsItsBytesInOrder : Prop :=
  ∀ (s : State) (c h l sp : BitVec 6), s.env.txReady = true →
    ∃ b : Byte, b = (if s.k = 0 then (0b01 : BitVec 2) ++ c else if s.k = 1 then (0b00 : BitVec 2) ++ h
        else if s.k = 2 then (0b00 : BitVec 2) ++ l else (0b00 : BitVec 2) ++ sp) ∧
      exec (.frameMove c h l sp) s = .next { s with
        tx := some b, outbound := s.outbound ++ [b], wcnt := 0,
        op := if s.k = 3 then .idle else s.op, k := if s.k = 3 then 0 else s.k + 1 }

/-- R106, R75: with the link ready, running a request frame hands `'@'` over, then the wire channel, and ends. That
running the row is one step of the engine is the model's choice (log 9). -/
def Obligations.RequestFrameSendsMarkerThenChannel : Prop :=
  ∀ (s : State) (c : BitVec 6), s.env.txReady = true →
    (s.k = 0 → exec (.frameFbreq c) s = .next { s with
      tx := some 0x40, outbound := s.outbound ++ [0x40], wcnt := 0, k := 1 }) ∧
    (s.k = 1 → exec (.frameFbreq c) s = .next { s with
      tx := some ((0b01 : BitVec 2) ++ c), outbound := s.outbound ++ [(0b01 : BitVec 2) ++ c],
      wcnt := 0, op := .idle, k := 0 })

/-- R107 while sending: with the link not ready the block holds under INFINITE; under BOUNDED(N) it counts, and the
step in which the count would reach N raises E_TIMEOUT (R204). That running a frame row is one step of the engine,
waiting included, is the model's choice (log 9). -/
def Obligations.WaitingToSend : Prop :=
  ∀ (s : State) (i : Instr), ((∃ c h l sp : BitVec 6, i = .frameMove c h l sp) ∨ (∃ c : BitVec 6, i = .frameFbreq c)) →
    s.env.txReady = false →
    (s.cfg.waitPolicy = .infinite → exec i s = .next s) ∧
    (∀ n : Nat, s.cfg.waitPolicy = .bounded n →
      (s.wcnt + 1 ≠ n → exec i s = .next { s with wcnt := s.wcnt + 1 }) ∧
      (s.wcnt + 1 = n → exec i s = .next { s with
        seq := .error, op := .idle, err := some .eTimeout }))

/-- R107 while receiving: the same with `rx_ready`; no byte is taken. -/
def Obligations.WaitingToReceive : Prop :=
  ∀ s : State, s.nextEnv.rst = false → s.halted = false → s.op = .rx → s.nextEnv.rxReady = false →
    (s.cfg.waitPolicy = .infinite → step s = .next s.sample) ∧
    (∀ n : Nat, s.cfg.waitPolicy = .bounded n →
      (s.wcnt + 1 ≠ n → step s = .next { s.sample with wcnt := s.wcnt + 1 }) ∧
      (s.wcnt + 1 = n → step s = .next { s.sample with
        seq := .error, op := .idle, err := some .eTimeout }))

/-- R127: the first two bytes of a response are taken into `rxb`, one a step. -/
def Obligations.ReceiveHoldsTheFirstTwoBytes : Prop :=
  ∀ s : State, s.nextEnv.rst = false → s.halted = false → s.op = .rx → s.nextEnv.rxReady = true →
    (s.k = 0 → step s = .next { s.sample with
      rxTake := true, inbound := s.inbound ++ [s.nextEnv.rxData], wcnt := 0, rxb0 := s.nextEnv.rxData, k := 1 }) ∧
    (s.k = 1 → step s = .next { s.sample with
      rxTake := true, inbound := s.inbound ++ [s.nextEnv.rxData], wcnt := 0, rxb1 := s.nextEnv.rxData, k := 2 })

/-- R128, R127: running a response writes the entry of its channel and the result registers and ends the receive;
every other entry reads as before. A channel without an entry halts with F_FB_INDEX; then a position above 4095
with F_FB_POSITION; neither writes anything. That running the row is R128 and the end of the receive, its third byte
already taken, is the model's choice (log 9). -/
def Obligations.ResponseIsDecodedAndStored : Prop :=
  ∀ (s : State) (e : BitVec 5) (h : BitVec 8) (l : BitVec 6),
    (1 ≤ e.toNat → e.toNat ≤ 16 → h.toNat < 64 →
      ∃ (t : State) (p : Pos), exec (.frameFbresp e h l) s = .next t ∧ p.toNat = 64 * h.toNat + l.toNat ∧
        t = { s with pf := t.pf, resCh := some e, resPos := some p, wcnt := 0, op := .idle, k := 0 } ∧
        t.pf.read e.toNat = some p ∧ ∀ a : Nat, a ≠ e.toNat → t.pf.read a = s.pf.read a) ∧
    (e.toNat = 0 ∨ 17 ≤ e.toNat →
      exec (.frameFbresp e h l) s = .next { s with
        seq := .fault, op := .idle, err := some .fFbIndex }) ∧
    (1 ≤ e.toNat → e.toNat ≤ 16 → 64 ≤ h.toNat →
      exec (.frameFbresp e h l) s = .next { s with
        seq := .fault, op := .idle, err := some .fFbPosition })

/-- The frame of every instruction, on every path, a fault's too: the endpoint, the counters of the sequencer, the
receive buffer, `cmd_accept`, the inputs and the configuration never change; the position file and the FBRECV results change only
by a response; `res_arr` only by ARRTEST; the latched frame only by MOVE and FBREQ; a byte is handed over only by an
outbound frame; ARRTEST leaves `k`, `wcnt` too. FRAME_FBRESP, the one form that stores to the position file, changes at
most the entry of its channel; that it leaves `rx_take` and the inbound stream, its byte already taken in the step, is
the model's choice (log 9). -/
def Obligations.InstructionFrames : Prop :=
  ∀ (i : Instr) (s t : State), exec i s = .next t →
    (t.cfg = s.cfg ∧ t.ep = s.ep ∧ t.ch = s.ch ∧ t.dcnt = s.dcnt ∧ t.pcnt = s.pcnt ∧ t.rxb0 = s.rxb0 ∧
      t.rxb1 = s.rxb1 ∧ t.env = s.env ∧ t.rxTake = s.rxTake ∧ t.cmdAccept = s.cmdAccept ∧ t.inbound = s.inbound ∧
      t.inputs = s.inputs ∧ t.draws = s.draws) ∧
    ((∀ e h l, i ≠ .frameFbresp e h l) → t.resCh = s.resCh ∧ t.resPos = s.resPos ∧
      ∀ a : Nat, t.pf.read a = s.pf.read a) ∧
    (∀ e h l, i = .frameFbresp e h l → ∀ a : Nat, a ≠ e.toNat → t.pf.read a = s.pf.read a) ∧
    ((∀ j u, i ≠ .arrtest j u) → t.resArr = s.resArr) ∧
    ((∀ c p sp, i ≠ .move c p sp) → (∀ c, i ≠ .fbreq c) → t.frm = s.frm ∧ t.flen = s.flen) ∧
    ((∀ c h l sp, i ≠ .frameMove c h l sp) → (∀ c, i ≠ .frameFbreq c) → t.tx = s.tx ∧ t.outbound = s.outbound) ∧
    (∀ j u, i = .arrtest j u → t.k = s.k ∧ t.wcnt = s.wcnt)

/-! ### Halting and reset -/

/-- R205, R203, R204: a step that halts the block sets `seq` to the halted state of its cause, `op` to OP_IDLE and
`err` to the cause; every other register and entry keeps its value and no byte is sent. -/
def Obligations.HaltKeepsEveryOtherRegister : Prop :=
  ∀ s t : State, step s = .next t → s.halted = false → t.halted = true →
    (∃ c : HaltCause, t.err = some c ∧ t.seq = c.haltState) ∧ t.op = .idle ∧
    t.ep = s.ep ∧ t.ch = s.ch ∧ t.k = s.k ∧ t.frm = s.frm ∧ t.flen = s.flen ∧ t.rxb0 = s.rxb0 ∧ t.rxb1 = s.rxb1 ∧
    t.dcnt = s.dcnt ∧ t.wcnt = s.wcnt ∧ t.pcnt = s.pcnt ∧ t.resCh = s.resCh ∧ t.resPos = s.resPos ∧
    t.resArr = s.resArr ∧ t.pf = s.pf ∧ t.tx = none ∧ t.outbound = s.outbound

/-- R203, R204, R208: a halted block takes no step: nothing is sent, taken or accepted and every register stays. -/
def Obligations.HaltedBlockTakesNoStep : Prop :=
  ∀ s : State, s.halted = true → s.nextEnv.rst = false →
    step s = .next { s with
      env := s.nextEnv, inputs := s.inputs.tail, draws := s.draws + 1,
      tx := none, rxTake := false, cmdAccept := false }

/-- R230, R233: a reset step, from every state, halted ones too, leaves the values of R42; the configuration is
unchanged and no byte is sent or taken. That what was sent and taken before stays so, and that the coming inputs stay,
is the model's reading (log 16). -/
def Obligations.ResetStepGivesTheResetValues : Prop :=
  ∀ s : State, s.nextEnv.rst = true →
    ∃ t : State, step s = .next t ∧ ResetState t ∧ t.cfg = s.cfg ∧
      t.outbound = s.outbound ∧ t.inbound = s.inbound ∧ t.inputs = s.inputs.tail

/-- R42: the state after reset under every configuration, and its outputs 0. What R42 leaves unspecified (log 3) is not
spoken of. -/
def Obligations.ResetStateHasTheValuesOfTheSpec : Prop :=
  ∀ c : Config, ResetState (State.resetFor c) ∧
    (State.resetFor c).seq = (if c.mode = .seq then .warm else .hIdle) ∧
    (State.resetFor c).outputs.txValid = false ∧ (State.resetFor c).outputs.rxTake = false ∧
    (State.resetFor c).outputs.cmdAccept = false ∧ (State.resetFor c).outputs.busy = false ∧
    (State.resetFor c).outputs.halted = false ∧ (State.resetFor c).outputs.faulted = false ∧
    (State.resetFor c).outputs.err = 0

/-! ### Invariants -/

/-- The invariant holds after reset, under every configuration. -/
def Obligations.InvariantHoldsAfterReset : Prop :=
  ∀ c : Config, Inv (State.resetFor c)

/-- Every step keeps the invariant: the position file stays canonical, `seq` a state of its mode and variant, the
frame in flight a legal frame with `k` inside it, `ch` a channel, `wcnt` and `pcnt` below their bounds, `err` in
agreement with `seq`, the FBRECV results written together. -/
def Obligations.EveryStepKeepsTheInvariant : Prop :=
  ∀ s t : State, Inv s → step s = .next t → Inv t

/-- From every state of the invariant a step answers a next state: no fault, for what the spec calls one is a state the
block goes to (log 12), and no refusal, for the one state that the model refuses is outside the invariant (log 13). -/
def Obligations.EveryStepAnswersANextState : Prop :=
  ∀ s : State, Inv s → ∃ t : State, step s = .next t

/-- R35: no step writes the configuration. -/
def Obligations.ConfigurationIsFixed : Prop :=
  ∀ s t : State, step s = .next t → t.cfg = s.cfg

/-- R141: the position file has one writer. A step that is no reset and changes the file is the one in OP_RX that
takes the third byte of a response that decodes, and it writes that response's entry. -/
def Obligations.OnlyTheDecoderWritesThePositionFile : Prop :=
  ∀ s t : State, step s = .next t → s.nextEnv.rst = false → t.pf ≠ s.pf →
    s.op = .rx ∧ s.k ≠ 0 ∧ s.k ≠ 1 ∧ s.nextEnv.rxReady = true ∧
    ∃ (c : BitVec 5) (p : Pos), decodeFeedback s.rxb0 s.rxb1 s.nextEnv.rxData = some (c, p) ∧
      t.pf.read c.toNat = some p ∧ ∀ a : Nat, a ≠ c.toNat → t.pf.read a = s.pf.read a

/-- R52, R53, R20: a step appends to the outbound stream exactly the byte on `tx_data` when `tx_valid` is 1, which is
only in OP_TX with `tx_ready` 1; it takes from the inbound stream exactly the byte on `rx_data` when `rx_take` is 1,
only in OP_RX with `rx_ready` 1; and it moves at most one byte. -/
def Obligations.OneByteAtMostMovesInAStep : Prop :=
  ∀ s t : State, step s = .next t →
    t.outbound = s.outbound ++ t.tx.toList ∧
    t.inbound = s.inbound ++ (if t.rxTake then [s.nextEnv.rxData] else []) ∧
    (t.tx ≠ none → s.op = .tx ∧ s.nextEnv.txReady = true ∧ s.nextEnv.rst = false) ∧
    (t.rxTake = true → s.op = .rx ∧ s.nextEnv.rxReady = true ∧ s.nextEnv.rst = false) ∧
    (t.tx = none ∨ t.rxTake = false)

/-- R60, R72: what a first byte and a later byte of a frame can be: never 0x80 or above; a first byte in 0x40..0x7F,
under CHECKED 0x40 or 0x41..0x56; a later byte of a move below 0x40; the second byte of a request a wire channel. -/
def Obligations.EmittedBytesAreFrameBytes : Prop :=
  ∀ (s t : State) (b : Byte), Inv s → step s = .next t → t.tx = some b →
    b.toNat < 0x80 ∧
    (s.k = 0 → 0x40 ≤ b.toNat ∧ (s.cfg.rangeCheck = .checked → b.toNat ≤ 0x56) ∧
      (s.flen = 2 → b.toNat = 0x40) ∧ (s.flen = 4 → s.cfg.rangeCheck = .checked → 0x41 ≤ b.toNat)) ∧
    (s.k ≠ 0 → s.flen = 4 → b.toNat < 0x40) ∧
    (s.k ≠ 0 → s.flen = 2 → 0x40 ≤ b.toNat ∧ (s.cfg.rangeCheck = .checked → 0x41 ≤ b.toNat ∧ b.toNat ≤ 0x56))

/-- R202: under INFINITE and UNBOUNDED no step raises an error; and in SEQ mode, in states of the invariant, a step
never raises F_CHANNEL or F_ARR_INDEX. -/
def Obligations.DefaultPoliciesRaiseNoError : Prop :=
  (∀ s t : State, s.cfg.waitPolicy = .infinite → s.cfg.pollLimit = .unbounded → step s = .next t →
    s.seq ≠ .error → t.seq ≠ .error) ∧
  (∀ s t : State, Inv s → s.cfg.mode = .seq → step s = .next t → s.halted = false →
    t.err ≠ some .fChannel ∧ t.err ≠ some .fArrIndex)

/-! ### What a step cannot see -/

/-- R54: `rx_ready` and `rx_data` are sampled only in OP_RX steps, `tx_ready` only in OP_TX steps: in any other step
their values make no difference to what the step does. -/
def Obligations.LinkInputsAreSampledOnlyByTheirEngine : Prop :=
  (∀ (s : State) (r : Bool) (d : Byte), s.op ≠ .rx →
    forgetEnv (step (s.mapNextEnv fun e => { e with rxReady := r, rxData := d })) = forgetEnv (step s)) ∧
  (∀ (s : State) (r : Bool), s.op ≠ .tx →
    forgetEnv (step (s.mapNextEnv fun e => { e with txReady := r })) = forgetEnv (step s))

/-- R166: outside the three start waits the switch is not sampled. -/
def Obligations.SwitchIsSampledOnlyInTheStartWaits : Prop :=
  ∀ (s : State) (b : Bool),
    ¬ (s.op = .idle ∧ s.cfg.mode = .seq ∧ (s.seq = .waitPress ∨ s.seq = .waitRelease ∨ s.seq = .waitLow)) →
    forgetEnv (step (s.mapNextEnv fun e => { e with startN := b })) = forgetEnv (step s)

/-- R37, R80: in SEQ mode, while an operation is in progress and while halted, the command port is ignored and
`cmd_accept` stays 0. -/
def Obligations.CommandPortIsIgnoredUnlessReady : Prop :=
  ∀ (s : State) (v : Bool) (w : CmdWord), s.cfg.mode = .seq ∨ s.op ≠ .idle ∨ s.halted = true →
    forgetEnv (step (s.mapNextEnv fun e => { e with cmdValid := v, cmdWord := w })) = forgetEnv (step s) ∧
    ∀ t : State, step s = .next t → t.cmdAccept = false

/-! ### The sequencer -/

/-- R161: S_WARM issues the warm-up move of channel `ch`, at speed 0; after channel 16 it goes on to the start wait
of the variant. -/
def Obligations.WarmupStepIssuesTheMove : Prop :=
  ∀ s : State, s.nextEnv.rst = false → s.cfg.mode = .seq → s.seq = .warm → s.op = .idle →
    1 ≤ s.ch.toNat → s.ch.toNat ≤ 16 →
    step s = .next { s.sample with
      frm := ⟨BitVec.ofNat 8 (0x40 + s.ch.toNat), plainByte (s.cfg.posWarmup.extractLsb' 6 6),
              plainByte (s.cfg.posWarmup.extractLsb' 0 6), 0⟩,
      flen := 4, k := 0, wcnt := 0, op := .tx,
      ch := if s.ch = 16 then 1 else s.ch + 1,
      seq := if s.ch = 16 then (if s.cfg.variant = .v1Feedback then .waitPress else .waitLow) else .warm }

/-- R163, R164, R165: the start waits. V1 waits for a pressed sample, then for a released one; V2 for a pressed
sample; the first phase targets endpoint A. -/
def Obligations.StartWaitsFollowTheSwitch : Prop :=
  ∀ s : State, s.nextEnv.rst = false → s.cfg.mode = .seq → s.op = .idle →
    (s.seq = .waitPress → s.nextEnv.startN = true → step s = .next s.sample) ∧
    (s.seq = .waitPress → s.nextEnv.startN = false → step s = .next { s.sample with seq := .waitRelease }) ∧
    (s.seq = .waitRelease → s.nextEnv.startN = false → step s = .next s.sample) ∧
    (s.seq = .waitRelease → s.nextEnv.startN = true →
      step s = .next { s.sample with ep := .a, ch := 1, pcnt := 0, seq := .issue }) ∧
    (s.seq = .waitLow → s.nextEnv.startN = true → step s = .next s.sample) ∧
    (s.seq = .waitLow → s.nextEnv.startN = false →
      step s = .next { s.sample with ep := .a, ch := 1, pcnt := 0, seq := .issue })

/-- R168: S_ISSUE issues the move of channel `ch` to the endpoint's target at SPEED_MOVE; after channel 16 it goes on
to S_POLL_REQ in V1, to S_DELAY in V2 with the delay counter loaded. -/
def Obligations.PhaseStepIssuesTheMove : Prop :=
  ∀ (s : State) (pos : Pos), s.nextEnv.rst = false → s.cfg.mode = .seq → s.seq = .issue → s.op = .idle →
    1 ≤ s.ch.toNat → s.ch.toNat ≤ 16 → pos = (if s.ep = .a then s.cfg.posA else s.cfg.posB) →
    step s = .next { s.sample with
      frm := ⟨BitVec.ofNat 8 (0x40 + s.ch.toNat), plainByte (pos.extractLsb' 6 6),
              plainByte (pos.extractLsb' 0 6), plainByte s.cfg.speedMove⟩,
      flen := 4, k := 0, wcnt := 0, op := .tx,
      ch := if s.ch = 16 then 1 else s.ch + 1,
      seq := if s.ch = 16 then (if s.cfg.variant = .v1Feedback then .pollReq else .delay) else .issue,
      dcnt := if s.ch = 16 ∧ s.cfg.variant = .v2Delay then s.cfg.delayBudget else s.dcnt }

/-- R172, R173: S_POLL_REQ issues the request for channel 1, S_POLL_RESP the receive. -/
def Obligations.PollStatesIssueRequestAndReceive : Prop :=
  ∀ s : State, s.nextEnv.rst = false → s.cfg.mode = .seq → s.op = .idle →
    (s.seq = .pollReq → step s = .next { s.sample with
      frm := ⟨0x40, 0x41, s.frm.b2, s.frm.b3⟩, flen := 2, k := 0, wcnt := 0, op := .tx, seq := .pollResp }) ∧
    (s.seq = .pollResp → step s = .next { s.sample with k := 0, wcnt := 0, op := .rx, seq := .test })

/-- R174: S_TEST compares PF[1] with the phase's target: arrived, it flips the endpoint and starts the next phase;
not arrived, it polls again, or raises E_ARRIVAL at the M-th unsuccessful test; PF[1] unwritten is F_UNWRITTEN. -/
def Obligations.ArrivalTestEndsOrRepeatsThePhase : Prop :=
  ∀ (s : State) (pos : Pos), s.nextEnv.rst = false → s.cfg.mode = .seq → s.seq = .test → s.op = .idle →
    pos = (if s.ep = .a then s.cfg.posA else s.cfg.posB) →
    (s.pf.read 1 = some pos → step s = .next { s.sample with
      ep := if s.ep = .a then .b else .a, ch := 1, pcnt := 0, seq := .issue }) ∧
    (s.pf.read 1 = none → step s = .next { s.sample with
      seq := .fault, op := .idle, err := some .fUnwritten }) ∧
    (∀ v : Pos, s.pf.read 1 = some v → v ≠ pos →
      (s.cfg.pollLimit = .unbounded → step s = .next { s.sample with seq := .pollReq }) ∧
      (∀ m : Nat, s.cfg.pollLimit = .limit m →
        (s.pcnt + 1 = m → step s = .next { s.sample with seq := .error, op := .idle, err := some .eArrival }) ∧
        (s.pcnt + 1 ≠ m → step s = .next { s.sample with pcnt := s.pcnt + 1, seq := .pollReq })))

/-- R175: S_DELAY counts down and, at 0, flips the endpoint and starts the next phase. -/
def Obligations.DelayStepCountsDown : Prop :=
  ∀ s : State, s.nextEnv.rst = false → s.cfg.mode = .seq → s.seq = .delay → s.op = .idle →
    (s.dcnt = 0 → step s = .next { s.sample with
      ep := if s.ep = .a then .b else .a, ch := 1, pcnt := 0, seq := .issue }) ∧
    (s.dcnt ≠ 0 → ∃ d : BitVec 32, d.toNat = s.dcnt.toNat - 1 ∧ step s = .next { s.sample with dcnt := d })

/-- R177: no step but a reset leaves the oscillation loop, except into a halt. -/
def Obligations.OscillationLoopIsNeverLeft : Prop :=
  ∀ s t : State, Inv s → step s = .next t → s.nextEnv.rst = false →
    loopState s.cfg.variant s.seq = true → loopState t.cfg.variant t.seq = true ∨ t.halted = true

/-- R162: no step but a reset leads back to the warm-up. -/
def Obligations.WarmupIsNeverRepeated : Prop :=
  ∀ s t : State, step s = .next t → s.nextEnv.rst = false → s.seq ≠ .warm → t.seq ≠ .warm

/-! ### Stretches of a run -/

/-- R161, R179: with the link ready the warm-up takes 80 steps: sixteen move frames, channels 1 to 16 in order, to
POS_WARMUP at speed 0; then the start wait of the variant. -/
def Obligations.WarmupSendsSixteenMoves : Prop :=
  ∀ s : State, s.cfg.mode = .seq → s.seq = .warm → s.op = .idle → s.ch = 1 → SendReady 80 s →
    ∃ t : State, Host.Core.run Sys2Proof.core 80 s = .next t ∧
      t.outbound = s.outbound ++ batchBytes s.cfg.posWarmup 0 ∧ t.inbound = s.inbound ∧
      t.seq = (if s.cfg.variant = .v1Feedback then .waitPress else .waitLow) ∧ t.op = .idle ∧ t.ch = 1 ∧
      t.ep = s.ep ∧ t.pf = s.pf ∧ t.cfg = s.cfg ∧ t.inputs = s.inputs.drop 80

/-- R168, R178, R179: with the link ready a phase's moves take 80 steps: sixteen move frames, channels 1 to 16 in
order, to the target of the endpoint at SPEED_MOVE; then S_POLL_REQ, or S_DELAY with the budget loaded. -/
def Obligations.PhaseSendsSixteenMoves : Prop :=
  ∀ s : State, s.cfg.mode = .seq → s.seq = .issue → s.op = .idle → s.ch = 1 → SendReady 80 s →
    ∃ t : State, Host.Core.run Sys2Proof.core 80 s = .next t ∧
      t.outbound = s.outbound ++ batchBytes (if s.ep = .a then s.cfg.posA else s.cfg.posB) s.cfg.speedMove ∧
      t.inbound = s.inbound ∧ t.seq = (if s.cfg.variant = .v1Feedback then .pollReq else .delay) ∧
      (s.cfg.variant = .v2Delay → t.dcnt = s.cfg.delayBudget) ∧ t.op = .idle ∧ t.ch = 1 ∧ t.ep = s.ep ∧
      t.pf = s.pf ∧ t.cfg = s.cfg ∧ t.inputs = s.inputs.drop 80

/-- R175: a delay of `dcnt` takes `dcnt + 1` steps, sends and takes nothing, and flips the endpoint. -/
def Obligations.DelayTakesItsCountPlusOneSteps : Prop :=
  ∀ s : State, s.cfg.mode = .seq → s.seq = .delay → s.op = .idle → NoResetFor (s.dcnt.toNat + 1) s →
    ∃ t : State, Host.Core.run Sys2Proof.core (s.dcnt.toNat + 1) s = .next t ∧
      t.outbound = s.outbound ∧ t.inbound = s.inbound ∧ t.seq = .issue ∧ t.op = .idle ∧ t.ch = 1 ∧
      t.ep = (if s.ep = .a then .b else .a) ∧ t.pf = s.pf ∧ t.cfg = s.cfg ∧
      t.inputs = s.inputs.drop (s.dcnt.toNat + 1)

/-- R172, R173, R174, R179: with the links ready one exchange of Variant 1 takes 8 steps: the request {0x40, 0x41} is
sent, the three bytes of the response are taken, and a response for channel 1 ends the phase exactly when its
position is the target; otherwise S_TEST polls again or, at the last test of a limit, halts. -/
def Obligations.OneExchangeTestsTheSentinel : Prop :=
  ∀ (s : State) (i0 i1 i2 i3 i4 i5 i6 i7 : Env) (rest : List Env) (v pos : Pos),
    s.cfg.mode = .seq → s.seq = .pollReq → s.op = .idle →
    s.inputs = i0 :: i1 :: i2 :: i3 :: i4 :: i5 :: i6 :: i7 :: rest →
    (∀ e ∈ [i0, i1, i2, i3, i4, i5, i6, i7], e.rst = false) →
    i1.txReady = true → i2.txReady = true → i4.rxReady = true → i5.rxReady = true → i6.rxReady = true →
    decodeFeedback i4.rxData i5.rxData i6.rxData = some (1, v) →
    pos = (if s.ep = .a then s.cfg.posA else s.cfg.posB) →
    ∃ t : State, Host.Core.run Sys2Proof.core 8 s = .next t ∧
      t.outbound = s.outbound ++ [0x40, 0x41] ∧
      t.inbound = s.inbound ++ [i4.rxData, i5.rxData, i6.rxData] ∧ t.op = .idle ∧ t.inputs = rest ∧
      t.pf.read 1 = some v ∧ (∀ a : Nat, a ≠ 1 → t.pf.read a = s.pf.read a) ∧
      (v = pos → t.seq = .issue ∧ t.ch = 1 ∧ t.pcnt = 0 ∧ t.ep = (if s.ep = .a then .b else .a)) ∧
      (v ≠ pos → PolledInVain s t)

/-- R244, R174: the same exchange with a response for another channel writes that channel's entry and leaves the
sentinel's: S_TEST then compares the old PF[1], or halts with F_UNWRITTEN where there is none. -/
def Obligations.StaleSentinelIsTested : Prop :=
  ∀ (s : State) (i0 i1 i2 i3 i4 i5 i6 i7 : Env) (rest : List Env) (c : BitVec 5) (v pos : Pos),
    s.cfg.mode = .seq → s.seq = .pollReq → s.op = .idle →
    s.inputs = i0 :: i1 :: i2 :: i3 :: i4 :: i5 :: i6 :: i7 :: rest →
    (∀ e ∈ [i0, i1, i2, i3, i4, i5, i6, i7], e.rst = false) →
    i1.txReady = true → i2.txReady = true → i4.rxReady = true → i5.rxReady = true → i6.rxReady = true →
    decodeFeedback i4.rxData i5.rxData i6.rxData = some (c, v) → c ≠ 1 →
    pos = (if s.ep = .a then s.cfg.posA else s.cfg.posB) →
    ∃ t : State, Host.Core.run Sys2Proof.core 8 s = .next t ∧
      t.outbound = s.outbound ++ [0x40, 0x41] ∧
      t.inbound = s.inbound ++ [i4.rxData, i5.rxData, i6.rxData] ∧ t.op = .idle ∧ t.inputs = rest ∧
      t.pf.read c.toNat = some v ∧ (∀ a : Nat, a ≠ c.toNat → t.pf.read a = s.pf.read a) ∧
      (s.pf.read 1 = none → t.seq = .fault ∧ t.err = some .fUnwritten) ∧
      (s.pf.read 1 = some pos → t.seq = .issue ∧ t.ch = 1 ∧ t.pcnt = 0 ∧ t.ep = (if s.ep = .a then .b else .a)) ∧
      (∀ w : Pos, s.pf.read 1 = some w → w ≠ pos → PolledInVain s t)

/-- R107, R207: under BOUNDED(N), N not-ready steps of one byte transfer, of either engine, end in S_ERROR with
E_TIMEOUT; the block waits in all the steps before; nothing is sent or taken and `k` is kept. -/
def Obligations.BoundedWaitEndsInTimeout : Prop :=
  ∀ (s : State) (n : Nat), s.cfg.waitPolicy = .bounded n → s.halted = false → s.op ≠ .idle → s.wcnt = 0 →
    NoResetFor n s →
    (∀ e ∈ s.inputs.take n, (s.op = .tx → e.txReady = false) ∧ (s.op = .rx → e.rxReady = false)) →
    (∀ j : Nat, j < n → ∃ t : State, Host.Core.run Sys2Proof.core j s = .next t ∧ t.op = s.op ∧ t.wcnt = j ∧
      t.k = s.k ∧ t.err = s.err) ∧
    ∃ t : State, Host.Core.run Sys2Proof.core n s = .next t ∧ t.seq = .error ∧ t.err = some .eTimeout ∧
      t.op = .idle ∧ t.k = s.k ∧ t.outbound = s.outbound ∧ t.inbound = s.inbound

/-- R237: under INFINITE, in a run without reset that the transport treats fairly, every operation in progress in a
state of the invariant comes to an end. -/
def Obligations.FairTransportEndsEveryOperation : Prop :=
  ∀ (e : Nat → Env) (f : Nat → State), IsRun e f → NoReset e → TransportFair e f → Inv (f 0) →
    (f 0).cfg.waitPolicy = .infinite → (f 0).op ≠ .idle → ∃ m : Nat, (f m).op = .idle

/-! ### Configuration and ports -/

/-- R11, R14, R15: a set of parameters is refused exactly where SPEED_MOVE is 0, N is 0 or M is 0; an accepted one is
taken as it stands. -/
def Obligations.IllegalParametersAreRefused : Prop :=
  (∀ p : Params, p.accept = none ↔
    p.speedMove = 0 ∨ p.waitPolicy = .bounded 0 ∨ p.pollLimit = .limit 0) ∧
  (∀ (p : Params) (c : Config), p.accept = some c → c.toParams = p)

/-- R37, R38, R36, R201: the command port's outputs are 0 in SEQ mode; in DIRECT mode each result shows on its port once
written, its written flag is 0 before, and `cmd_accept` shows; `busy`, `halted` and `faulted` show `op` and `seq`, and
`err` the code of the cause, 0 while running; `tx_valid` is 1 with the byte handed over on `tx_data`, 0 where none is,
and `rx_take` shows in both modes. -/
def Obligations.OutputPortsShowTheState : Prop :=
  ∀ s : State,
    (s.cfg.mode = .seq → s.outputs.cmdAccept = false ∧ s.outputs.resCh = 0 ∧ s.outputs.resChWritten = false ∧
      s.outputs.resPos = 0 ∧ s.outputs.resPosWritten = false ∧ s.outputs.resArr = false ∧
      s.outputs.resArrWritten = false) ∧
    (s.cfg.mode = .direct → s.outputs.cmdAccept = s.cmdAccept ∧
      (∀ c : BitVec 5, s.resCh = some c → s.outputs.resCh = c ∧ s.outputs.resChWritten = true) ∧
      (s.resCh = none → s.outputs.resChWritten = false) ∧
      (∀ p : Pos, s.resPos = some p → s.outputs.resPos = p ∧ s.outputs.resPosWritten = true) ∧
      (s.resPos = none → s.outputs.resPosWritten = false) ∧
      (∀ r : Bool, s.resArr = some r → s.outputs.resArr = r ∧ s.outputs.resArrWritten = true) ∧
      (s.resArr = none → s.outputs.resArrWritten = false)) ∧
    (s.outputs.busy = true ↔ s.op ≠ .idle) ∧
    (s.outputs.halted = true ↔ s.seq = .error ∨ s.seq = .fault) ∧
    (s.outputs.faulted = true ↔ s.seq = .fault) ∧
    (s.err = none → s.outputs.err = 0) ∧ (s.err = some .fChannel → s.outputs.err = 1) ∧
    (s.err = some .fFbIndex → s.outputs.err = 2) ∧ (s.err = some .fFbPosition → s.outputs.err = 3) ∧
    (s.err = some .fUnwritten → s.outputs.err = 4) ∧ (s.err = some .fArrIndex → s.outputs.err = 5) ∧
    (s.err = some .eTimeout → s.outputs.err = 6) ∧ (s.err = some .eArrival → s.outputs.err = 7) ∧
    (∀ b : Byte, s.tx = some b → s.outputs.txValid = true ∧ s.outputs.txData = b) ∧
    (s.tx = none → s.outputs.txValid = false) ∧ s.outputs.rxTake = s.rxTake

/-- R80, R37: `cmd_accept` is 1 after exactly the steps that took a command, one that faults too. -/
def Obligations.CommandAcceptShowsEveryTakenCommand : Prop :=
  ∀ s t : State, Inv s → step s = .next t →
    (t.outputs.cmdAccept = true ↔ s.nextEnv.rst = false ∧ s.cfg.mode = .direct ∧ s.seq = .hIdle ∧ s.op = .idle ∧
      s.nextEnv.cmdValid = true)

/-! ### The end of a run -/

/-- R236: a run ends in S_ERROR, or in DIRECT mode in H_IDLE with no operation in progress where the host presents no
further command; never in S_FAULT, and in SEQ mode in S_ERROR only. Without reset the state it ends in is kept, but for
the sampled inputs, the step count and the one-step outputs, which are 0. The environment as a sequence is the model's
(log 2). -/
def Obligations.EndOfARunIsKept : Prop :=
  ∀ (e : Nat → Env) (f : Nat → State) (n : Nat), IsRun e f → EndsAt e f n →
    (f n).seq ≠ .fault ∧ ((f n).cfg.mode = .seq → (f n).seq = .error) ∧
    ((∀ m : Nat, (e (n + m)).rst = false) → ∀ m : Nat,
      f (n + m + 1) = { f n with
        env := e (n + m), draws := (f n).draws + m + 1, tx := none, rxTake := false, cmdAccept := false })

/-- R13 to R16: State.reset is the reset state under the spec's defaults. -/
def Obligations.ResetConfigurationHasTheDefaults : Prop :=
  State.reset = State.resetFor Config.default ∧ State.reset.cfg.mode = .seq ∧
  State.reset.cfg.rangeCheck = .checked ∧ State.reset.cfg.waitPolicy = .infinite ∧
  State.reset.cfg.pollLimit = .unbounded
end

