-- ==== Sys2Proof/Laws/Bits.lean ====
section
/-! SUPPORT. The bits of bytes and words: what the fields of an encoded byte or command word are, and the operand
forms as numbers (30_encoding.md R72, R73; 41_feedback.md R128). -/

namespace Sys2Proof

@[simp] theorem topTwo_wireByte (c : BitVec 6) : topTwo (wireByte c) = 1#2 := by revert c; decide

@[simp] theorem lowSix_wireByte (c : BitVec 6) : lowSix (wireByte c) = c := by revert c; decide

@[simp] theorem topTwo_plainByte (x : BitVec 6) : topTwo (plainByte x) = 0#2 := by revert x; decide

@[simp] theorem lowSix_plainByte (x : BitVec 6) : lowSix (plainByte x) = x := by revert x; decide

@[simp] theorem lowFive_setWidth (e : BitVec 5) : lowFive (e.setWidth 8) = e := by revert e; decide

@[simp] theorem wireChannelBits_wireByte (c : BitVec 6) : wireChannelBits (wireByte c) = .ok c := by
  simp [wireChannelBits]

@[simp] theorem wireChannelBits_plainByte (x : BitVec 6) :
    wireChannelBits (plainByte x) = .error .notWireChannel := by
  simp [wireChannelBits]

@[simp] theorem sixBits_plainByte (x : BitVec 6) : sixBits (plainByte x) = .ok x := by
  simp [sixBits]

/-- A byte whose top bits are 01 is the wire byte of its low six. -/
theorem wireByte_lowSix {b : Byte} (h : topTwo b = 1#2) : wireByte (lowSix b) = b := by
  revert h; revert b; decide

/-- A byte whose top bits are 00 is the plain byte of its low six. -/
theorem plainByte_lowSix {b : Byte} (h : topTwo b = 0#2) : plainByte (lowSix b) = b := by
  revert h; revert b; decide

/-- `topTwo` as a quotient. -/
theorem topTwo_toNat (b : Byte) : (topTwo b).toNat = b.toNat / 64 := by revert b; decide

/-- The four fields of a command word put together from them (R74). -/
theorem commandWord_fields (op : BitVec 2) (ch : BitVec 8) (val : BitVec 16) (spd : BitVec 8) :
    cmdOp (commandWord op ch val spd) = op ∧ cmdCh (commandWord op ch val spd) = ch ∧
    cmdVal (commandWord op ch val spd) = val ∧ cmdSpd (commandWord op ch val spd) = spd := by
  have key : ∀ i, BitVec.getLsbD (commandWord op ch val spd) i =
      (if i < 8 then spd.getLsbD i else if i - 8 < 16 then val.getLsbD (i - 8)
       else if i - 8 - 16 < 8 then ch.getLsbD (i - 8 - 16) else op.getLsbD (i - 8 - 16 - 8)) := by
    intro i
    show BitVec.getLsbD (w := 2 + 8 + 16 + 8) (((op ++ ch) ++ val) ++ spd) i = _
    simp only [BitVec.getLsbD_append]
  refine ⟨?_, ?_, ?_, ?_⟩ <;> (apply BitVec.eq_of_getLsbD_eq; intro i hi)
  · simp only [cmdOp, BitVec.getLsbD_extractLsb', key, hi, decide_true, Bool.true_and]
    rw [if_neg (by omega), if_neg (by omega), if_neg (by omega), show 32 + i - 8 - 16 - 8 = i by omega]
  · simp only [cmdCh, BitVec.getLsbD_extractLsb', key, hi, decide_true, Bool.true_and]
    rw [if_neg (by omega), if_neg (by omega), if_pos (by omega), show 24 + i - 8 - 16 = i by omega]
  · simp only [cmdVal, BitVec.getLsbD_extractLsb', key, hi, decide_true, Bool.true_and]
    rw [if_neg (by omega), if_pos (by omega), show 8 + i - 8 = i by omega]
  · simp only [cmdSpd, BitVec.getLsbD_extractLsb', key, hi, decide_true, Bool.true_and]
    rw [if_pos (by omega), show 0 + i = i by omega]

namespace Machine

theorem toNat_and_63 (n : Nat) : n &&& 63 = n % 64 := Nat.and_two_pow_sub_one_eq_mod n 6

theorem toNat_and_31 (n : Nat) : n &&& 31 = n % 32 := Nat.and_two_pow_sub_one_eq_mod n 5

theorem wire_toNat (c : BitVec 8) (h : c.toNat < 128) :
    (wire c).toNat = if c.toNat < 64 then 64 + c.toNat else c.toNat := by
  revert h; revert c; decide

theorem higher_toNat (p : BitVec 16) : (higher p).toNat = p.toNat / 64 % 64 := by
  simp [higher, Nat.shiftRight_eq_div_pow, toNat_and_63]

theorem lower_toNat (p : BitVec 16) : (lower p).toNat = p.toNat % 64 := by
  simp [lower, toNat_and_63]

theorem ramp_toNat (sp : BitVec 8) : (ramp sp).toNat = sp.toNat % 64 := by
  simp [ramp, toNat_and_63]

theorem responseIndex_toNat (e : Byte) : (responseIndex e).toNat = e.toNat % 32 := by
  simp [responseIndex, toNat_and_31]

theorem responsePosition_toNat (h l : Byte) :
    (responsePosition h l).toNat = 64 * h.toNat + l.toNat % 64 := by
  have hh := h.isLt
  have hl : l.toNat % 64 < 2 ^ 6 := Nat.mod_lt _ (by decide)
  simp only [responsePosition, BitVec.toNat_or, BitVec.toNat_shiftLeft, BitVec.toNat_setWidth, BitVec.toNat_and]
  rw [show BitVec.toNat 63#8 = 63 from rfl, toNat_and_63, Nat.mod_eq_of_lt (show h.toNat < 2 ^ 14 by omega),
    Nat.mod_eq_of_lt (show h.toNat <<< 6 < 2 ^ 14 by rw [Nat.shiftLeft_eq]; omega),
    Nat.mod_eq_of_lt (show l.toNat % 64 < 2 ^ 14 by omega), ← Nat.shiftLeft_add_eq_or_of_lt hl, Nat.shiftLeft_eq]
  omega

end Machine

end Sys2Proof
end

