-- ==== Sys2Proof/Laws/Memory.lean ====
section
/-! SUPPORT. The position file: a read after a write, and the canonical form, which the one operation that changes
the file keeps (10_state.md R31). -/

namespace Sys2Proof.Machine

@[simp] theorem Memory.read_nil (i : Nat) : Memory.read [] i = none := rfl

@[simp] theorem Memory.wf_nil : Memory.wf [] = true := rfl

theorem Memory.read_write_same (m : Memory) (i : Nat) (v : Pos) : (m.write i v).read i = some v := by
  induction m with
  | nil => simp [Memory.write, Memory.read]
  | cons p rest ih =>
    obtain ⟨j, w⟩ := p
    simp only [Memory.write]
    split
    · simp [Memory.read]
    · split
      · simp [Memory.read]
      · simp [Memory.read, *]

theorem Memory.read_write_other (m : Memory) {i a : Nat} (v : Pos) (h : a ≠ i) :
    (m.write i v).read a = m.read a := by
  induction m with
  | nil => simp [Memory.write, Memory.read, h, Memory.unlisted]
  | cons p rest ih =>
    obtain ⟨j, w⟩ := p
    simp only [Memory.write]
    split
    · simp [Memory.read, h]
    · split
      · next hij => subst hij; simp [Memory.read, h]
      · simp [Memory.read, ih]

/-- Raising the lower bound of a rising list to below a new lower index keeps it rising. -/
theorem Memory.risesFrom_write (m : Memory) {lo i : Nat} (v : Pos) (hm : m.risesFrom lo = true)
    (hlo : lo < i) (hi : i ≤ numCh) : (m.write i v).risesFrom lo = true := by
  induction m generalizing lo with
  | nil => simp [Memory.write, Memory.risesFrom, hlo, hi]
  | cons p rest ih =>
    obtain ⟨j, w⟩ := p
    simp only [Memory.risesFrom, Bool.and_eq_true, decide_eq_true_eq] at hm
    simp only [Memory.write]
    split
    · next hij => simp [Memory.risesFrom, *]
    · split
      · next hij => subst hij; simp [Memory.risesFrom, *]
      · next h1 h2 =>
        have := ih hm.2 (by omega)
        simp [Memory.risesFrom, hm.1, this]

/-- Writing an entry keeps the canonical form. -/
theorem Memory.wf_write {m : Memory} {i : Nat} (v : Pos) (hm : m.wf = true) (hi : hasEntry i = true) :
    (m.write i v).wf = true := by
  simp only [hasEntry, Bool.and_eq_true, decide_eq_true_eq] at hi
  exact Memory.risesFrom_write m v hm (by omega) hi.2

/-- In a file of the canonical form only indices with an entry read as written. -/
theorem Memory.hasEntry_of_read {m : Memory} {lo i : Nat} {v : Pos} (hm : m.risesFrom lo = true)
    (h : m.read i = some v) : lo < i ∧ i ≤ numCh := by
  induction m generalizing lo with
  | nil => simp at h
  | cons p rest ih =>
    obtain ⟨j, w⟩ := p
    simp only [Memory.risesFrom, Bool.and_eq_true, decide_eq_true_eq] at hm
    simp only [Memory.read] at h
    split at h
    · next hij => subst hij; exact hm.1
    · have := ih hm.2 h
      omega

end Sys2Proof.Machine
end

