-- ==== Sys2Proof/Laws/State.lean ====
section
/-! SUPPORT. One lemma for each field of each named update of `State`, true by rfl, so that no proof unfolds a
record update. -/

namespace Sys2Proof.Machine

section sample
variable (s : State)
@[simp] theorem State.sample_cfg : s.sample.cfg = s.cfg := rfl
@[simp] theorem State.sample_seq : s.sample.seq = s.seq := rfl
@[simp] theorem State.sample_op : s.sample.op = s.op := rfl
@[simp] theorem State.sample_ep : s.sample.ep = s.ep := rfl
@[simp] theorem State.sample_ch : s.sample.ch = s.ch := rfl
@[simp] theorem State.sample_k : s.sample.k = s.k := rfl
@[simp] theorem State.sample_frm : s.sample.frm = s.frm := rfl
@[simp] theorem State.sample_flen : s.sample.flen = s.flen := rfl
@[simp] theorem State.sample_rxb0 : s.sample.rxb0 = s.rxb0 := rfl
@[simp] theorem State.sample_rxb1 : s.sample.rxb1 = s.rxb1 := rfl
@[simp] theorem State.sample_dcnt : s.sample.dcnt = s.dcnt := rfl
@[simp] theorem State.sample_wcnt : s.sample.wcnt = s.wcnt := rfl
@[simp] theorem State.sample_pcnt : s.sample.pcnt = s.pcnt := rfl
@[simp] theorem State.sample_err : s.sample.err = s.err := rfl
@[simp] theorem State.sample_resCh : s.sample.resCh = s.resCh := rfl
@[simp] theorem State.sample_resPos : s.sample.resPos = s.resPos := rfl
@[simp] theorem State.sample_resArr : s.sample.resArr = s.resArr := rfl
@[simp] theorem State.sample_pf : s.sample.pf = s.pf := rfl
@[simp] theorem State.sample_env : s.sample.env = s.nextEnv := rfl
@[simp] theorem State.sample_tx : s.sample.tx = none := rfl
@[simp] theorem State.sample_rxTake : s.sample.rxTake = false := rfl
@[simp] theorem State.sample_cmdAccept : s.sample.cmdAccept = false := rfl
@[simp] theorem State.sample_outbound : s.sample.outbound = s.outbound := rfl
@[simp] theorem State.sample_inbound : s.sample.inbound = s.inbound := rfl
@[simp] theorem State.sample_inputs : s.sample.inputs = s.inputs.tail := rfl
@[simp] theorem State.sample_draws : s.sample.draws = s.draws + 1 := rfl
end sample

section txByte
variable (b : Byte) (s : State)
@[simp] theorem State.txByte_cfg : (s.txByte b).cfg = s.cfg := rfl
@[simp] theorem State.txByte_seq : (s.txByte b).seq = s.seq := rfl
@[simp] theorem State.txByte_op : (s.txByte b).op = s.op := rfl
@[simp] theorem State.txByte_ep : (s.txByte b).ep = s.ep := rfl
@[simp] theorem State.txByte_ch : (s.txByte b).ch = s.ch := rfl
@[simp] theorem State.txByte_k : (s.txByte b).k = s.k := rfl
@[simp] theorem State.txByte_frm : (s.txByte b).frm = s.frm := rfl
@[simp] theorem State.txByte_flen : (s.txByte b).flen = s.flen := rfl
@[simp] theorem State.txByte_rxb0 : (s.txByte b).rxb0 = s.rxb0 := rfl
@[simp] theorem State.txByte_rxb1 : (s.txByte b).rxb1 = s.rxb1 := rfl
@[simp] theorem State.txByte_dcnt : (s.txByte b).dcnt = s.dcnt := rfl
@[simp] theorem State.txByte_wcnt : (s.txByte b).wcnt = s.wcnt := rfl
@[simp] theorem State.txByte_pcnt : (s.txByte b).pcnt = s.pcnt := rfl
@[simp] theorem State.txByte_err : (s.txByte b).err = s.err := rfl
@[simp] theorem State.txByte_resCh : (s.txByte b).resCh = s.resCh := rfl
@[simp] theorem State.txByte_resPos : (s.txByte b).resPos = s.resPos := rfl
@[simp] theorem State.txByte_resArr : (s.txByte b).resArr = s.resArr := rfl
@[simp] theorem State.txByte_pf : (s.txByte b).pf = s.pf := rfl
@[simp] theorem State.txByte_env : (s.txByte b).env = s.env := rfl
@[simp] theorem State.txByte_tx : (s.txByte b).tx = some b := rfl
@[simp] theorem State.txByte_rxTake : (s.txByte b).rxTake = s.rxTake := rfl
@[simp] theorem State.txByte_cmdAccept : (s.txByte b).cmdAccept = s.cmdAccept := rfl
@[simp] theorem State.txByte_outbound : (s.txByte b).outbound = s.outbound ++ [b] := rfl
@[simp] theorem State.txByte_inbound : (s.txByte b).inbound = s.inbound := rfl
@[simp] theorem State.txByte_inputs : (s.txByte b).inputs = s.inputs := rfl
@[simp] theorem State.txByte_draws : (s.txByte b).draws = s.draws := rfl
end txByte

section rxByte
variable (s : State)
@[simp] theorem State.rxByte_cfg : s.rxByte.cfg = s.cfg := rfl
@[simp] theorem State.rxByte_seq : s.rxByte.seq = s.seq := rfl
@[simp] theorem State.rxByte_op : s.rxByte.op = s.op := rfl
@[simp] theorem State.rxByte_ep : s.rxByte.ep = s.ep := rfl
@[simp] theorem State.rxByte_ch : s.rxByte.ch = s.ch := rfl
@[simp] theorem State.rxByte_k : s.rxByte.k = s.k := rfl
@[simp] theorem State.rxByte_frm : s.rxByte.frm = s.frm := rfl
@[simp] theorem State.rxByte_flen : s.rxByte.flen = s.flen := rfl
@[simp] theorem State.rxByte_rxb0 : s.rxByte.rxb0 = s.rxb0 := rfl
@[simp] theorem State.rxByte_rxb1 : s.rxByte.rxb1 = s.rxb1 := rfl
@[simp] theorem State.rxByte_dcnt : s.rxByte.dcnt = s.dcnt := rfl
@[simp] theorem State.rxByte_wcnt : s.rxByte.wcnt = s.wcnt := rfl
@[simp] theorem State.rxByte_pcnt : s.rxByte.pcnt = s.pcnt := rfl
@[simp] theorem State.rxByte_err : s.rxByte.err = s.err := rfl
@[simp] theorem State.rxByte_resCh : s.rxByte.resCh = s.resCh := rfl
@[simp] theorem State.rxByte_resPos : s.rxByte.resPos = s.resPos := rfl
@[simp] theorem State.rxByte_resArr : s.rxByte.resArr = s.resArr := rfl
@[simp] theorem State.rxByte_pf : s.rxByte.pf = s.pf := rfl
@[simp] theorem State.rxByte_env : s.rxByte.env = s.env := rfl
@[simp] theorem State.rxByte_tx : s.rxByte.tx = s.tx := rfl
@[simp] theorem State.rxByte_rxTake : s.rxByte.rxTake = true := rfl
@[simp] theorem State.rxByte_cmdAccept : s.rxByte.cmdAccept = s.cmdAccept := rfl
@[simp] theorem State.rxByte_outbound : s.rxByte.outbound = s.outbound := rfl
@[simp] theorem State.rxByte_inbound : s.rxByte.inbound = s.inbound ++ [s.env.rxData] := rfl
@[simp] theorem State.rxByte_inputs : s.rxByte.inputs = s.inputs := rfl
@[simp] theorem State.rxByte_draws : s.rxByte.draws = s.draws := rfl
end rxByte

section accept
variable (s : State)
@[simp] theorem State.accept_cfg : s.accept.cfg = s.cfg := rfl
@[simp] theorem State.accept_seq : s.accept.seq = s.seq := rfl
@[simp] theorem State.accept_op : s.accept.op = s.op := rfl
@[simp] theorem State.accept_ep : s.accept.ep = s.ep := rfl
@[simp] theorem State.accept_ch : s.accept.ch = s.ch := rfl
@[simp] theorem State.accept_k : s.accept.k = s.k := rfl
@[simp] theorem State.accept_frm : s.accept.frm = s.frm := rfl
@[simp] theorem State.accept_flen : s.accept.flen = s.flen := rfl
@[simp] theorem State.accept_rxb0 : s.accept.rxb0 = s.rxb0 := rfl
@[simp] theorem State.accept_rxb1 : s.accept.rxb1 = s.rxb1 := rfl
@[simp] theorem State.accept_dcnt : s.accept.dcnt = s.dcnt := rfl
@[simp] theorem State.accept_wcnt : s.accept.wcnt = s.wcnt := rfl
@[simp] theorem State.accept_pcnt : s.accept.pcnt = s.pcnt := rfl
@[simp] theorem State.accept_err : s.accept.err = s.err := rfl
@[simp] theorem State.accept_resCh : s.accept.resCh = s.resCh := rfl
@[simp] theorem State.accept_resPos : s.accept.resPos = s.resPos := rfl
@[simp] theorem State.accept_resArr : s.accept.resArr = s.resArr := rfl
@[simp] theorem State.accept_pf : s.accept.pf = s.pf := rfl
@[simp] theorem State.accept_env : s.accept.env = s.env := rfl
@[simp] theorem State.accept_tx : s.accept.tx = s.tx := rfl
@[simp] theorem State.accept_rxTake : s.accept.rxTake = s.rxTake := rfl
@[simp] theorem State.accept_cmdAccept : s.accept.cmdAccept = true := rfl
@[simp] theorem State.accept_outbound : s.accept.outbound = s.outbound := rfl
@[simp] theorem State.accept_inbound : s.accept.inbound = s.inbound := rfl
@[simp] theorem State.accept_inputs : s.accept.inputs = s.inputs := rfl
@[simp] theorem State.accept_draws : s.accept.draws = s.draws := rfl
end accept

section halt
variable (c : HaltCause) (s : State)
@[simp] theorem State.halt_cfg : (s.halt c).cfg = s.cfg := rfl
@[simp] theorem State.halt_seq : (s.halt c).seq = c.haltState := rfl
@[simp] theorem State.halt_op : (s.halt c).op = .idle := rfl
@[simp] theorem State.halt_ep : (s.halt c).ep = s.ep := rfl
@[simp] theorem State.halt_ch : (s.halt c).ch = s.ch := rfl
@[simp] theorem State.halt_k : (s.halt c).k = s.k := rfl
@[simp] theorem State.halt_frm : (s.halt c).frm = s.frm := rfl
@[simp] theorem State.halt_flen : (s.halt c).flen = s.flen := rfl
@[simp] theorem State.halt_rxb0 : (s.halt c).rxb0 = s.rxb0 := rfl
@[simp] theorem State.halt_rxb1 : (s.halt c).rxb1 = s.rxb1 := rfl
@[simp] theorem State.halt_dcnt : (s.halt c).dcnt = s.dcnt := rfl
@[simp] theorem State.halt_wcnt : (s.halt c).wcnt = s.wcnt := rfl
@[simp] theorem State.halt_pcnt : (s.halt c).pcnt = s.pcnt := rfl
@[simp] theorem State.halt_err : (s.halt c).err = some c := rfl
@[simp] theorem State.halt_resCh : (s.halt c).resCh = s.resCh := rfl
@[simp] theorem State.halt_resPos : (s.halt c).resPos = s.resPos := rfl
@[simp] theorem State.halt_resArr : (s.halt c).resArr = s.resArr := rfl
@[simp] theorem State.halt_pf : (s.halt c).pf = s.pf := rfl
@[simp] theorem State.halt_env : (s.halt c).env = s.env := rfl
@[simp] theorem State.halt_tx : (s.halt c).tx = s.tx := rfl
@[simp] theorem State.halt_rxTake : (s.halt c).rxTake = s.rxTake := rfl
@[simp] theorem State.halt_cmdAccept : (s.halt c).cmdAccept = s.cmdAccept := rfl
@[simp] theorem State.halt_outbound : (s.halt c).outbound = s.outbound := rfl
@[simp] theorem State.halt_inbound : (s.halt c).inbound = s.inbound := rfl
@[simp] theorem State.halt_inputs : (s.halt c).inputs = s.inputs := rfl
@[simp] theorem State.halt_draws : (s.halt c).draws = s.draws := rfl
end halt

section resetStep
variable (s : State)
@[simp] theorem State.resetStep_cfg : s.resetStep.cfg = s.cfg := rfl
@[simp] theorem State.resetStep_seq : s.resetStep.seq = SeqState.atReset s.cfg.mode := rfl
@[simp] theorem State.resetStep_op : s.resetStep.op = .idle := rfl
@[simp] theorem State.resetStep_ep : s.resetStep.ep = .a := rfl
@[simp] theorem State.resetStep_ch : s.resetStep.ch = 1#5 := rfl
@[simp] theorem State.resetStep_k : s.resetStep.k = 0#2 := rfl
@[simp] theorem State.resetStep_frm : s.resetStep.frm = ⟨0#8, 0#8, 0#8, 0#8⟩ := rfl
@[simp] theorem State.resetStep_flen : s.resetStep.flen = 0#3 := rfl
@[simp] theorem State.resetStep_rxb0 : s.resetStep.rxb0 = 0#8 := rfl
@[simp] theorem State.resetStep_rxb1 : s.resetStep.rxb1 = 0#8 := rfl
@[simp] theorem State.resetStep_dcnt : s.resetStep.dcnt = 0#32 := rfl
@[simp] theorem State.resetStep_wcnt : s.resetStep.wcnt = 0 := rfl
@[simp] theorem State.resetStep_pcnt : s.resetStep.pcnt = 0 := rfl
@[simp] theorem State.resetStep_err : s.resetStep.err = none := rfl
@[simp] theorem State.resetStep_resCh : s.resetStep.resCh = none := rfl
@[simp] theorem State.resetStep_resPos : s.resetStep.resPos = none := rfl
@[simp] theorem State.resetStep_resArr : s.resetStep.resArr = none := rfl
@[simp] theorem State.resetStep_pf : s.resetStep.pf = [] := rfl
@[simp] theorem State.resetStep_env : s.resetStep.env = s.env := rfl
@[simp] theorem State.resetStep_tx : s.resetStep.tx = none := rfl
@[simp] theorem State.resetStep_rxTake : s.resetStep.rxTake = false := rfl
@[simp] theorem State.resetStep_cmdAccept : s.resetStep.cmdAccept = false := rfl
@[simp] theorem State.resetStep_outbound : s.resetStep.outbound = s.outbound := rfl
@[simp] theorem State.resetStep_inbound : s.resetStep.inbound = s.inbound := rfl
@[simp] theorem State.resetStep_inputs : s.resetStep.inputs = s.inputs := rfl
@[simp] theorem State.resetStep_draws : s.resetStep.draws = s.draws := rfl
end resetStep

section startTx
variable (f : Frame) (n : BitVec 3) (q : SeqState) (s : State)
@[simp] theorem State.startTx_cfg : (s.startTx f n q).cfg = s.cfg := rfl
@[simp] theorem State.startTx_seq : (s.startTx f n q).seq = q := rfl
@[simp] theorem State.startTx_op : (s.startTx f n q).op = .tx := rfl
@[simp] theorem State.startTx_ep : (s.startTx f n q).ep = s.ep := rfl
@[simp] theorem State.startTx_ch : (s.startTx f n q).ch = s.ch := rfl
@[simp] theorem State.startTx_k : (s.startTx f n q).k = 0#2 := rfl
@[simp] theorem State.startTx_frm : (s.startTx f n q).frm = f := rfl
@[simp] theorem State.startTx_flen : (s.startTx f n q).flen = n := rfl
@[simp] theorem State.startTx_rxb0 : (s.startTx f n q).rxb0 = s.rxb0 := rfl
@[simp] theorem State.startTx_rxb1 : (s.startTx f n q).rxb1 = s.rxb1 := rfl
@[simp] theorem State.startTx_dcnt : (s.startTx f n q).dcnt = s.dcnt := rfl
@[simp] theorem State.startTx_wcnt : (s.startTx f n q).wcnt = 0 := rfl
@[simp] theorem State.startTx_pcnt : (s.startTx f n q).pcnt = s.pcnt := rfl
@[simp] theorem State.startTx_err : (s.startTx f n q).err = s.err := rfl
@[simp] theorem State.startTx_resCh : (s.startTx f n q).resCh = s.resCh := rfl
@[simp] theorem State.startTx_resPos : (s.startTx f n q).resPos = s.resPos := rfl
@[simp] theorem State.startTx_resArr : (s.startTx f n q).resArr = s.resArr := rfl
@[simp] theorem State.startTx_pf : (s.startTx f n q).pf = s.pf := rfl
@[simp] theorem State.startTx_env : (s.startTx f n q).env = s.env := rfl
@[simp] theorem State.startTx_tx : (s.startTx f n q).tx = s.tx := rfl
@[simp] theorem State.startTx_rxTake : (s.startTx f n q).rxTake = s.rxTake := rfl
@[simp] theorem State.startTx_cmdAccept : (s.startTx f n q).cmdAccept = s.cmdAccept := rfl
@[simp] theorem State.startTx_outbound : (s.startTx f n q).outbound = s.outbound := rfl
@[simp] theorem State.startTx_inbound : (s.startTx f n q).inbound = s.inbound := rfl
@[simp] theorem State.startTx_inputs : (s.startTx f n q).inputs = s.inputs := rfl
@[simp] theorem State.startTx_draws : (s.startTx f n q).draws = s.draws := rfl
end startTx

section issueFbrecv
variable (q : SeqState) (s : State)
@[simp] theorem State.issueFbrecv_cfg : (s.issueFbrecv q).cfg = s.cfg := rfl
@[simp] theorem State.issueFbrecv_seq : (s.issueFbrecv q).seq = q := rfl
@[simp] theorem State.issueFbrecv_op : (s.issueFbrecv q).op = .rx := rfl
@[simp] theorem State.issueFbrecv_ep : (s.issueFbrecv q).ep = s.ep := rfl
@[simp] theorem State.issueFbrecv_ch : (s.issueFbrecv q).ch = s.ch := rfl
@[simp] theorem State.issueFbrecv_k : (s.issueFbrecv q).k = 0#2 := rfl
@[simp] theorem State.issueFbrecv_frm : (s.issueFbrecv q).frm = s.frm := rfl
@[simp] theorem State.issueFbrecv_flen : (s.issueFbrecv q).flen = s.flen := rfl
@[simp] theorem State.issueFbrecv_rxb0 : (s.issueFbrecv q).rxb0 = s.rxb0 := rfl
@[simp] theorem State.issueFbrecv_rxb1 : (s.issueFbrecv q).rxb1 = s.rxb1 := rfl
@[simp] theorem State.issueFbrecv_dcnt : (s.issueFbrecv q).dcnt = s.dcnt := rfl
@[simp] theorem State.issueFbrecv_wcnt : (s.issueFbrecv q).wcnt = 0 := rfl
@[simp] theorem State.issueFbrecv_pcnt : (s.issueFbrecv q).pcnt = s.pcnt := rfl
@[simp] theorem State.issueFbrecv_err : (s.issueFbrecv q).err = s.err := rfl
@[simp] theorem State.issueFbrecv_resCh : (s.issueFbrecv q).resCh = s.resCh := rfl
@[simp] theorem State.issueFbrecv_resPos : (s.issueFbrecv q).resPos = s.resPos := rfl
@[simp] theorem State.issueFbrecv_resArr : (s.issueFbrecv q).resArr = s.resArr := rfl
@[simp] theorem State.issueFbrecv_pf : (s.issueFbrecv q).pf = s.pf := rfl
@[simp] theorem State.issueFbrecv_env : (s.issueFbrecv q).env = s.env := rfl
@[simp] theorem State.issueFbrecv_tx : (s.issueFbrecv q).tx = s.tx := rfl
@[simp] theorem State.issueFbrecv_rxTake : (s.issueFbrecv q).rxTake = s.rxTake := rfl
@[simp] theorem State.issueFbrecv_cmdAccept : (s.issueFbrecv q).cmdAccept = s.cmdAccept := rfl
@[simp] theorem State.issueFbrecv_outbound : (s.issueFbrecv q).outbound = s.outbound := rfl
@[simp] theorem State.issueFbrecv_inbound : (s.issueFbrecv q).inbound = s.inbound := rfl
@[simp] theorem State.issueFbrecv_inputs : (s.issueFbrecv q).inputs = s.inputs := rfl
@[simp] theorem State.issueFbrecv_draws : (s.issueFbrecv q).draws = s.draws := rfl
end issueFbrecv

section startPhase
variable (s : State)
@[simp] theorem State.startPhase_cfg : s.startPhase.cfg = s.cfg := rfl
@[simp] theorem State.startPhase_seq : s.startPhase.seq = .issue := rfl
@[simp] theorem State.startPhase_op : s.startPhase.op = s.op := rfl
@[simp] theorem State.startPhase_ep : s.startPhase.ep = .a := rfl
@[simp] theorem State.startPhase_ch : s.startPhase.ch = 1#5 := rfl
@[simp] theorem State.startPhase_k : s.startPhase.k = s.k := rfl
@[simp] theorem State.startPhase_frm : s.startPhase.frm = s.frm := rfl
@[simp] theorem State.startPhase_flen : s.startPhase.flen = s.flen := rfl
@[simp] theorem State.startPhase_rxb0 : s.startPhase.rxb0 = s.rxb0 := rfl
@[simp] theorem State.startPhase_rxb1 : s.startPhase.rxb1 = s.rxb1 := rfl
@[simp] theorem State.startPhase_dcnt : s.startPhase.dcnt = s.dcnt := rfl
@[simp] theorem State.startPhase_wcnt : s.startPhase.wcnt = s.wcnt := rfl
@[simp] theorem State.startPhase_pcnt : s.startPhase.pcnt = 0 := rfl
@[simp] theorem State.startPhase_err : s.startPhase.err = s.err := rfl
@[simp] theorem State.startPhase_resCh : s.startPhase.resCh = s.resCh := rfl
@[simp] theorem State.startPhase_resPos : s.startPhase.resPos = s.resPos := rfl
@[simp] theorem State.startPhase_resArr : s.startPhase.resArr = s.resArr := rfl
@[simp] theorem State.startPhase_pf : s.startPhase.pf = s.pf := rfl
@[simp] theorem State.startPhase_env : s.startPhase.env = s.env := rfl
@[simp] theorem State.startPhase_tx : s.startPhase.tx = s.tx := rfl
@[simp] theorem State.startPhase_rxTake : s.startPhase.rxTake = s.rxTake := rfl
@[simp] theorem State.startPhase_cmdAccept : s.startPhase.cmdAccept = s.cmdAccept := rfl
@[simp] theorem State.startPhase_outbound : s.startPhase.outbound = s.outbound := rfl
@[simp] theorem State.startPhase_inbound : s.startPhase.inbound = s.inbound := rfl
@[simp] theorem State.startPhase_inputs : s.startPhase.inputs = s.inputs := rfl
@[simp] theorem State.startPhase_draws : s.startPhase.draws = s.draws := rfl
end startPhase

section nextPhase
variable (s : State)
@[simp] theorem State.nextPhase_cfg : s.nextPhase.cfg = s.cfg := rfl
@[simp] theorem State.nextPhase_seq : s.nextPhase.seq = .issue := rfl
@[simp] theorem State.nextPhase_op : s.nextPhase.op = s.op := rfl
@[simp] theorem State.nextPhase_ep : s.nextPhase.ep = s.ep.flip := rfl
@[simp] theorem State.nextPhase_ch : s.nextPhase.ch = 1#5 := rfl
@[simp] theorem State.nextPhase_k : s.nextPhase.k = s.k := rfl
@[simp] theorem State.nextPhase_frm : s.nextPhase.frm = s.frm := rfl
@[simp] theorem State.nextPhase_flen : s.nextPhase.flen = s.flen := rfl
@[simp] theorem State.nextPhase_rxb0 : s.nextPhase.rxb0 = s.rxb0 := rfl
@[simp] theorem State.nextPhase_rxb1 : s.nextPhase.rxb1 = s.rxb1 := rfl
@[simp] theorem State.nextPhase_dcnt : s.nextPhase.dcnt = s.dcnt := rfl
@[simp] theorem State.nextPhase_wcnt : s.nextPhase.wcnt = s.wcnt := rfl
@[simp] theorem State.nextPhase_pcnt : s.nextPhase.pcnt = 0 := rfl
@[simp] theorem State.nextPhase_err : s.nextPhase.err = s.err := rfl
@[simp] theorem State.nextPhase_resCh : s.nextPhase.resCh = s.resCh := rfl
@[simp] theorem State.nextPhase_resPos : s.nextPhase.resPos = s.resPos := rfl
@[simp] theorem State.nextPhase_resArr : s.nextPhase.resArr = s.resArr := rfl
@[simp] theorem State.nextPhase_pf : s.nextPhase.pf = s.pf := rfl
@[simp] theorem State.nextPhase_env : s.nextPhase.env = s.env := rfl
@[simp] theorem State.nextPhase_tx : s.nextPhase.tx = s.tx := rfl
@[simp] theorem State.nextPhase_rxTake : s.nextPhase.rxTake = s.rxTake := rfl
@[simp] theorem State.nextPhase_cmdAccept : s.nextPhase.cmdAccept = s.cmdAccept := rfl
@[simp] theorem State.nextPhase_outbound : s.nextPhase.outbound = s.outbound := rfl
@[simp] theorem State.nextPhase_inbound : s.nextPhase.inbound = s.inbound := rfl
@[simp] theorem State.nextPhase_inputs : s.nextPhase.inputs = s.inputs := rfl
@[simp] theorem State.nextPhase_draws : s.nextPhase.draws = s.draws := rfl
end nextPhase

end Sys2Proof.Machine
end

