-- ==== Sys2Proof/Laws/Ops.lean ====
section
/-! SUPPORT. What each shared operation can do, said once: provers cite these and do not unfold the operation. -/

namespace Sys2Proof.Machine

@[simp] theorem State.settle_ok (s t : State) : s.settle (.ok t) = t := rfl

@[simp] theorem State.settle_error (s : State) (c : HaltCause) : s.settle (.error c) = s.halt c := rfl

/-- The end of a rule: what it wrote, or a halt from the state at its start. -/
theorem State.settle_cases (s : State) (r : Except HaltCause State) :
    (∃ t, r = .ok t ∧ s.settle r = t) ∨ (∃ c, r = .error c ∧ s.settle r = s.halt c) := by
  cases r with
  | ok t => exact .inl ⟨t, rfl, rfl⟩
  | error c => exact .inr ⟨c, rfl, rfl⟩

@[simp] theorem State.halted_halt (s : State) (c : HaltCause) : (s.halt c).halted = true := by
  cases c <;> rfl

/-- The channel check as the two ranges of R102. -/
theorem channelOk_iff (rc : RangeCheck) (c : BitVec 8) :
    channelOk rc c = true ↔ c.toNat < 128 ∧ (rc = .checked → 1 ≤ c.toNat ∧ c.toNat ≤ 22) := by
  cases rc <;> simp [channelOk, chWireMax, BitVec.le_def]

theorem hasEntry_iff (i : Nat) : hasEntry i = true ↔ 1 ≤ i ∧ i ≤ 16 := by
  simp [hasEntry]

theorem State.waitTick_cases (s : State) :
    (waitExpired s.cfg.waitPolicy s.wcnt = true ∧ s.waitTick = .error .eTimeout) ∨
    (waitExpired s.cfg.waitPolicy s.wcnt = false ∧
      s.waitTick = .ok { s with wcnt := waitCount s.cfg.waitPolicy s.wcnt }) := by
  unfold State.waitTick
  split
  · next h => exact .inl ⟨h, rfl⟩
  · next h => exact .inr ⟨by simpa using h, rfl⟩

/-- The transmit step: a byte handed over, the frame done or not, or a wait. -/
theorem State.sendByte_cases (f : Frame) (n : BitVec 3) (s : State) :
    (s.env.txReady = true ∧ s.k.setWidth 3 = n - 1#3 ∧
      s.sendByte f n = .ok { s.txByte (f.byte s.k) with wcnt := 0, op := .idle, k := 0#2 }) ∨
    (s.env.txReady = true ∧ s.k.setWidth 3 ≠ n - 1#3 ∧
      s.sendByte f n = .ok { s.txByte (f.byte s.k) with wcnt := 0, k := s.k + 1#2 }) ∨
    (s.env.txReady = false ∧ s.sendByte f n = s.waitTick) := by
  unfold State.sendByte
  split
  · split
    · next h1 h2 => exact .inl ⟨h1, h2, rfl⟩
    · next h1 h2 => exact .inr (.inl ⟨h1, h2, rfl⟩)
  · next h => exact .inr (.inr ⟨by simpa using h, rfl⟩)

theorem State.issueMove_cases (c : BitVec 8) (p : BitVec 16) (sp : BitVec 8) (q : SeqState) (s : State) :
    (channelOk s.cfg.rangeCheck c = true ∧ s.issueMove c p sp q = .ok (s.startTx (moveFrame c p sp) 4#3 q)) ∨
    (channelOk s.cfg.rangeCheck c = false ∧ s.issueMove c p sp q = .error .fChannel) := by
  unfold State.issueMove
  split
  · next h => exact .inl ⟨h, rfl⟩
  · next h => exact .inr ⟨by simpa using h, rfl⟩

theorem State.issueFbreq_cases (c : BitVec 8) (q : SeqState) (s : State) :
    (channelOk s.cfg.rangeCheck c = true ∧ s.issueFbreq c q = .ok (s.startTx (requestFrame s.frm c) 2#3 q)) ∨
    (channelOk s.cfg.rangeCheck c = false ∧ s.issueFbreq c q = .error .fChannel) := by
  unfold State.issueFbreq
  split
  · next h => exact .inl ⟨h, rfl⟩
  · next h => exact .inr ⟨by simpa using h, rfl⟩

/-- Decoding a response: the index fault first, then the position fault, else the pair (R206). -/
theorem decodeResponse_cases (e h l : Byte) :
    (hasEntry (responseIndex e).toNat = false ∧ decodeResponse e h l = .error .fFbIndex) ∨
    (hasEntry (responseIndex e).toNat = true ∧ 4095#14 < responsePosition h l ∧
      decodeResponse e h l = .error .fFbPosition) ∨
    (hasEntry (responseIndex e).toNat = true ∧ responsePosition h l ≤ 4095#14 ∧
      decodeResponse e h l = .ok (responseIndex e, (responsePosition h l).setWidth 12)) := by
  unfold decodeResponse
  split
  · next h => exact .inl ⟨h, rfl⟩
  · split
    · next h1 h2 => exact .inr (.inl ⟨by simpa using h1, h2, rfl⟩)
    · next h1 h2 => exact .inr (.inr ⟨by simpa using h1, BitVec.not_lt.mp h2, rfl⟩)

/-- The write port: a fault, or one entry and the result registers written. -/
theorem State.decodeAndStore_cases (e h l : Byte) (s : State) :
    (∃ c, decodeResponse e h l = .error c ∧ c.haltState = .fault ∧ s.decodeAndStore e h l = .error c) ∨
    (∃ i v, decodeResponse e h l = .ok (i, v) ∧ hasEntry i.toNat = true ∧
      s.decodeAndStore e h l = .ok { s with
        pf := s.pf.write i.toNat v, resCh := some i, resPos := some v, wcnt := 0, op := .idle, k := 0#2 }) := by
  rcases decodeResponse_cases e h l with ⟨-, hd⟩ | ⟨-, -, hd⟩ | ⟨hi, -, hd⟩
  · exact .inl ⟨_, hd, rfl, by simp [State.decodeAndStore, hd]⟩
  · exact .inl ⟨_, hd, rfl, by simp [State.decodeAndStore, hd]⟩
  · exact .inr ⟨_, _, hd, hi, by simp [State.decodeAndStore, hd]⟩

theorem State.arrived_cases (i : BitVec 5) (t : BitVec 16) (s : State) :
    (∃ v, s.pf.read i.toNat = some v ∧ s.arrived i t = .ok (positionMatches v t)) ∨
    (s.pf.read i.toNat = none ∧ s.arrived i t = .error .fUnwritten) := by
  unfold State.arrived State.readPf
  cases h : s.pf.read i.toNat with
  | some v => exact .inl ⟨v, rfl, rfl⟩
  | none => exact .inr ⟨rfl, rfl⟩

/-- ARRTEST: the index fault first, then the read (R206). -/
theorem State.arrtest_cases (i : BitVec 8) (t : BitVec 16) (s : State) :
    (hasEntry i.toNat = false ∧ s.arrtest i t = .error .fArrIndex) ∨
    (hasEntry i.toNat = true ∧ s.pf.read (i.setWidth 5).toNat = none ∧ s.arrtest i t = .error .fUnwritten) ∨
    (hasEntry i.toNat = true ∧ ∃ v, s.pf.read (i.setWidth 5).toNat = some v ∧
      s.arrtest i t = .ok { s with resArr := some (positionMatches v t) }) := by
  unfold State.arrtest
  split
  · next h =>
    rcases s.arrived_cases (i.setWidth 5) t with ⟨v, hv, ha⟩ | ⟨hn, ha⟩
    · exact .inr (.inr ⟨h, v, hv, by simp [ha]⟩)
    · exact .inr (.inl ⟨h, hn, by simp [ha]⟩)
  · next h => exact .inl ⟨by simpa using h, rfl⟩

end Sys2Proof.Machine
end

