-- ==== Sys2Proof/Laws/Step.lean ====
section
/-! SUPPORT. What a step can do, said once: its five activities (10_state.md R20), and what each answers. -/

namespace Sys2Proof.Machine

/-- Every instruction answers a next state. -/
theorem exec_next (i : Instr) (s : State) : ∃ t, exec i s = .next t := by
  cases i <;> exact ⟨_, rfl⟩

/-- The five activities of a step. -/
theorem step_cases (s : State) :
    (s.nextEnv.rst = true ∧ step s = .next s.sample.resetStep) ∨
    (s.nextEnv.rst = false ∧ s.halted = true ∧ step s = .next s.sample) ∨
    (s.nextEnv.rst = false ∧ s.halted = false ∧ s.op = .tx ∧ step s = txEngine s.sample) ∨
    (s.nextEnv.rst = false ∧ s.halted = false ∧ s.op = .rx ∧ step s = rxEngine s.sample) ∨
    (s.nextEnv.rst = false ∧ s.halted = false ∧ s.op = .idle ∧ s.cfg.mode = .seq ∧ step s = seqStep s.sample) ∨
    (s.nextEnv.rst = false ∧ s.halted = false ∧ s.op = .idle ∧ s.cfg.mode = .direct ∧
      step s = hostStep s.sample) := by
  have hh : s.sample.halted = s.halted := rfl
  unfold step cycle
  cases h1 : s.nextEnv.rst <;> cases h2 : s.halted <;> cases h3 : s.op <;> cases h4 : s.cfg.mode <;>
    simp [h1, h2, h3, h4, hh]

/-- The transmit engine is one transmit step on some frame of the latched length. -/
theorem txEngine_cases (s : State) :
    ∃ f n, txEngine s = .next (s.settle (s.sendByte f n)) ∧
      ((∃ c h l sp, latchedInstr s.frm s.flen = some (.frameMove c h l sp) ∧ f = moveFrameOf c h l sp ∧ n = 4#3) ∨
       (∃ c, latchedInstr s.frm s.flen = some (.frameFbreq c) ∧ f = requestFrameOf s.frm c ∧ n = 2#3) ∨
       (latchedInstr s.frm s.flen = none ∧ f = s.frm ∧ n = s.flen)) := by
  unfold txEngine
  cases hi : latchedInstr s.frm s.flen with
  | none => exact ⟨_, _, rfl, .inr (.inr ⟨rfl, rfl, rfl⟩)⟩
  | some i =>
    cases i with
    | frameMove c h l sp => exact ⟨_, _, rfl, .inl ⟨c, h, l, sp, rfl, rfl, rfl⟩⟩
    | frameFbreq c => exact ⟨_, _, rfl, .inr (.inl ⟨c, rfl, rfl, rfl⟩)⟩
    | move | fbreq | fbrecv | arrtest | frameFbresp =>
      exfalso
      revert hi
      unfold latchedInstr decode decodeMoveFrame decodeFbreqFrame
      repeat' split
      all_goals simp_all [Except.toOption]

/-- The receive engine: a byte held, a response run, or a wait. -/
theorem rxEngine_cases (s : State) :
    (s.env.rxReady = true ∧ s.k = 0#2 ∧
      rxEngine s = .next { s.rxByte with wcnt := 0, rxb0 := s.env.rxData, k := 1#2 }) ∨
    (s.env.rxReady = true ∧ s.k = 1#2 ∧
      rxEngine s = .next { s.rxByte with wcnt := 0, rxb1 := s.env.rxData, k := 2#2 }) ∨
    (s.env.rxReady = true ∧ s.k ≠ 0#2 ∧ s.k ≠ 1#2 ∧
      rxEngine s = exec (decodeFbrespFrame s.rxb0 s.rxb1 s.env.rxData) s.rxByte) ∨
    (s.env.rxReady = false ∧ rxEngine s = .next (s.settle s.waitTick)) := by
  unfold rxEngine
  split
  · split
    · next h1 h2 => exact .inl ⟨h1, h2, rfl⟩
    · split
      · next h1 h2 h3 => exact .inr (.inl ⟨h1, h3, rfl⟩)
      · next h1 h2 h3 => exact .inr (.inr (.inl ⟨h1, h2, h3, rfl⟩))
  · next h => exact .inr (.inr (.inr ⟨by simpa using h, rfl⟩))

/-- Only H_IDLE in SEQ mode has no rule. -/
theorem seqStep_next (s : State) (h : s.seq ≠ .hIdle) : ∃ t, seqStep s = .next t := by
  unfold seqStep
  cases hq : s.seq <;> first | exact ⟨_, rfl⟩ | exact absurd hq h

theorem txEngine_next (s : State) : ∃ t, txEngine s = .next t := by
  obtain ⟨f, n, h, -⟩ := txEngine_cases s
  exact ⟨_, h⟩

theorem rxEngine_next (s : State) : ∃ t, rxEngine s = .next t := by
  rcases rxEngine_cases s with ⟨-, -, h⟩ | ⟨-, -, h⟩ | ⟨-, -, -, h⟩ | ⟨-, h⟩
  · exact ⟨_, h⟩
  · exact ⟨_, h⟩
  · rw [h]; exact exec_next _ _
  · exact ⟨_, h⟩

theorem hostStep_next (s : State) : ∃ t, hostStep s = .next t := by
  unfold hostStep
  split
  · exact exec_next _ _
  · exact ⟨_, rfl⟩

/-! ### Inversion: every next state of each activity -/

/-- The transmit engine: a byte of the latched frame handed over (the frame done or not), a timeout, a wait. -/
theorem txEngine_inv {s t : State} (h : txEngine s = .next t) :
    ∃ f n,
      ((∃ c h l sp, latchedInstr s.frm s.flen = some (.frameMove c h l sp) ∧ f = moveFrameOf c h l sp ∧ n = 4#3) ∨
       (∃ c, latchedInstr s.frm s.flen = some (.frameFbreq c) ∧ f = requestFrameOf s.frm c ∧ n = 2#3) ∨
       (latchedInstr s.frm s.flen = none ∧ f = s.frm ∧ n = s.flen)) ∧
      ((s.env.txReady = true ∧ s.k.setWidth 3 = n - 1#3 ∧
          t = { s.txByte (f.byte s.k) with wcnt := 0, op := .idle, k := 0#2 }) ∨
       (s.env.txReady = true ∧ s.k.setWidth 3 ≠ n - 1#3 ∧
          t = { s.txByte (f.byte s.k) with wcnt := 0, k := s.k + 1#2 }) ∨
       (s.env.txReady = false ∧ waitExpired s.cfg.waitPolicy s.wcnt = true ∧ t = s.halt .eTimeout) ∨
       (s.env.txReady = false ∧ waitExpired s.cfg.waitPolicy s.wcnt = false ∧
          t = { s with wcnt := waitCount s.cfg.waitPolicy s.wcnt })) := by
  obtain ⟨f, n, hh, hc⟩ := txEngine_cases s
  refine ⟨f, n, hc, ?_⟩
  rw [hh] at h
  simp only [Host.Outcome.next.injEq] at h
  subst h
  rcases s.sendByte_cases f n with ⟨a, b, e⟩ | ⟨a, b, e⟩ | ⟨a, e⟩
  · exact .inl ⟨a, b, by rw [e]; rfl⟩
  · exact .inr (.inl ⟨a, b, by rw [e]; rfl⟩)
  · rcases s.waitTick_cases with ⟨b, e'⟩ | ⟨b, e'⟩
    · exact .inr (.inr (.inl ⟨a, b, by rw [e, e']; rfl⟩))
    · exact .inr (.inr (.inr ⟨a, b, by rw [e, e']; rfl⟩))

/-- Decoding reads only the bits of the echo and the lower byte that R76 keeps. -/
theorem decodeResponse_low (e h l : Byte) :
    decodeResponse ((lowFive e).setWidth 8) h ((lowSix l).setWidth 8) = decodeResponse e h l := by
  have h1 : responseIndex ((lowFive e).setWidth 8) = responseIndex e := by revert e; decide
  have h2 : (lowSix l).setWidth 8 &&& 0x3F#8 = l &&& 0x3F#8 := by revert l; decide
  have h3 : responsePosition h ((lowSix l).setWidth 8) = responsePosition h l := by
    unfold responsePosition
    rw [h2]
  unfold decodeResponse
  rw [h1, h3]

/-- The receive engine: a byte held, a fault of the third byte, a response stored, a timeout, a wait. -/
theorem rxEngine_inv {s t : State} (h : rxEngine s = .next t) :
    (s.env.rxReady = true ∧ s.k = 0#2 ∧ t = { s.rxByte with wcnt := 0, rxb0 := s.env.rxData, k := 1#2 }) ∨
    (s.env.rxReady = true ∧ s.k = 1#2 ∧ t = { s.rxByte with wcnt := 0, rxb1 := s.env.rxData, k := 2#2 }) ∨
    (s.env.rxReady = true ∧ s.k ≠ 0#2 ∧ s.k ≠ 1#2 ∧
      ∃ c, decodeResponse s.rxb0 s.rxb1 s.env.rxData = .error c ∧ (c = .fFbIndex ∨ c = .fFbPosition) ∧
        t = s.rxByte.halt c) ∨
    (s.env.rxReady = true ∧ s.k ≠ 0#2 ∧ s.k ≠ 1#2 ∧
      ∃ i v, decodeResponse s.rxb0 s.rxb1 s.env.rxData = .ok (i, v) ∧ hasEntry i.toNat = true ∧
        t = { s.rxByte with pf := s.pf.write i.toNat v, resCh := some i, resPos := some v,
                            wcnt := 0, op := .idle, k := 0#2 }) ∨
    (s.env.rxReady = false ∧ waitExpired s.cfg.waitPolicy s.wcnt = true ∧ t = s.halt .eTimeout) ∨
    (s.env.rxReady = false ∧ waitExpired s.cfg.waitPolicy s.wcnt = false ∧
      t = { s with wcnt := waitCount s.cfg.waitPolicy s.wcnt }) := by
  rcases rxEngine_cases s with ⟨a, b, e⟩ | ⟨a, b, e⟩ | ⟨a, b, b', e⟩ | ⟨a, e⟩
  · rw [e] at h; simp only [Host.Outcome.next.injEq] at h; exact .inl ⟨a, b, h.symm⟩
  · rw [e] at h; simp only [Host.Outcome.next.injEq] at h; exact .inr (.inl ⟨a, b, h.symm⟩)
  · rw [e] at h
    simp only [decodeFbrespFrame, exec, execFrameFbresp, Host.Outcome.next.injEq, State.decodeAndStore,
      decodeResponse_low] at h
    rcases decodeResponse_cases s.rxb0 s.rxb1 s.env.rxData with ⟨-, hd⟩ | ⟨-, -, hd⟩ | ⟨hi, -, hd⟩
    · rw [hd] at h; exact .inr (.inr (.inl ⟨a, b, b', _, hd, .inl rfl, h.symm⟩))
    · rw [hd] at h; exact .inr (.inr (.inl ⟨a, b, b', _, hd, .inr rfl, h.symm⟩))
    · rw [hd] at h; exact .inr (.inr (.inr (.inl ⟨a, b, b', _, _, hd, hi, h.symm⟩)))
  · rw [e] at h
    simp only [Host.Outcome.next.injEq] at h
    subst h
    rcases s.waitTick_cases with ⟨b, e'⟩ | ⟨b, e'⟩
    · exact .inr (.inr (.inr (.inr (.inl ⟨a, b, by rw [e']; rfl⟩))))
    · exact .inr (.inr (.inr (.inr (.inr ⟨a, b, by rw [e']; rfl⟩))))

/-- The host port: no command, a fault, MOVE or FBREQ issued, FBRECV issued, ARRTEST done. -/
theorem hostStep_inv {s t : State} (h : hostStep s = .next t) :
    (s.env.cmdValid = false ∧ t = s) ∨
    (∃ c, c.haltState = .fault ∧ t = s.accept.halt c) ∨
    (∃ c p sp, channelOk s.cfg.rangeCheck c = true ∧ t = s.accept.startTx (moveFrame c p sp) 4#3 .hIdle) ∨
    (∃ c, channelOk s.cfg.rangeCheck c = true ∧ t = s.accept.startTx (requestFrame s.frm c) 2#3 .hIdle) ∨
    t = s.accept.issueFbrecv .hIdle ∨
    (∃ r, t = { s.accept with resArr := some r }) := by
  unfold hostStep at h
  split at h
  · cases hi : decodeCommand s.env.cmdWord with
    | move c p sp =>
      rw [hi] at h
      simp only [exec, execMove, Host.Outcome.next.injEq] at h
      subst h
      rcases s.accept.issueMove_cases c p sp .hIdle with ⟨a, e⟩ | ⟨a, e⟩
      · exact .inr (.inr (.inl ⟨c, p, sp, a, by rw [e]; rfl⟩))
      · exact .inr (.inl ⟨.fChannel, rfl, by rw [e]; rfl⟩)
    | fbreq c =>
      rw [hi] at h
      simp only [exec, execFbreq, Host.Outcome.next.injEq] at h
      subst h
      rcases s.accept.issueFbreq_cases c .hIdle with ⟨a, e⟩ | ⟨a, e⟩
      · exact .inr (.inr (.inr (.inl ⟨c, a, by rw [e]; rfl⟩)))
      · exact .inr (.inl ⟨.fChannel, rfl, by rw [e]; rfl⟩)
    | fbrecv =>
      rw [hi] at h
      simp only [exec, execFbrecv, Host.Outcome.next.injEq] at h
      exact .inr (.inr (.inr (.inr (.inl h.symm))))
    | arrtest i u =>
      rw [hi] at h
      simp only [exec, execArrtest, Host.Outcome.next.injEq] at h
      subst h
      rcases s.accept.arrtest_cases i u with ⟨_, e⟩ | ⟨_, _, e⟩ | ⟨_, v, _, e⟩
      · exact .inr (.inl ⟨.fArrIndex, rfl, by rw [e]; rfl⟩)
      · exact .inr (.inl ⟨.fUnwritten, rfl, by rw [e]; rfl⟩)
      · exact .inr (.inr (.inr (.inr (.inr ⟨_, by rw [e]; rfl⟩))))
    | frameMove | frameFbreq | frameFbresp =>
      exfalso
      revert hi
      unfold decodeCommand
      repeat' split
      all_goals simp
  · next hv => exact .inl ⟨by simpa using hv, by simpa [eq_comm] using h⟩

/-- A position zero-extended to 16 bits matches a target exactly where the positions are equal (R144). -/
theorem positionMatches_setWidth (v w : Pos) : positionMatches v (w.setWidth 16) = decide (v = w) := by
  have hv := v.isLt
  have hw := w.isLt
  simp only [positionMatches, ← BitVec.toNat_inj, BitVec.toNat_setWidth]
  rw [Nat.mod_eq_of_lt (by omega), Nat.mod_eq_of_lt (by omega)]

/-- S_WARM: the move of channel `ch` or of channel 16, or a channel fault. -/
theorem State.warmStep_cases (s : State) :
    ∃ c q ch', ((s.ch.toNat < 16 ∧ c = s.ch.setWidth 8 ∧ q = SeqState.warm ∧ ch' = s.ch + 1#5) ∨
        (16 ≤ s.ch.toNat ∧ c = 16#8 ∧ q = idleState s.cfg.variant ∧ ch' = 1#5)) ∧
      ((channelOk s.cfg.rangeCheck c = true ∧ s.warmStep =
          .ok { s.startTx (moveFrame c (s.cfg.posWarmup.setWidth 16) warmupSpeed) 4#3 q with ch := ch' }) ∨
       (channelOk s.cfg.rangeCheck c = false ∧ s.warmStep = .error .fChannel)) := by
  unfold State.warmStep
  split
  · next hc =>
    refine ⟨s.ch.setWidth 8, .warm, s.ch + 1#5, .inl ⟨hc, rfl, rfl, rfl⟩, ?_⟩
    rcases s.issueMove_cases (s.ch.setWidth 8) (s.cfg.posWarmup.setWidth 16) warmupSpeed .warm with ⟨a, e⟩ | ⟨a, e⟩
    · exact .inl ⟨a, by rw [e]; rfl⟩
    · exact .inr ⟨a, by rw [e]; rfl⟩
  · next hc =>
    refine ⟨16#8, idleState s.cfg.variant, 1#5, .inr ⟨Nat.le_of_not_lt hc, rfl, rfl, rfl⟩, ?_⟩
    rcases s.issueMove_cases 16#8 (s.cfg.posWarmup.setWidth 16) warmupSpeed (idleState s.cfg.variant)
      with ⟨a, e⟩ | ⟨a, e⟩
    · exact .inl ⟨a, by rw [e]; rfl⟩
    · exact .inr ⟨a, by rw [e]; rfl⟩

/-- S_ISSUE: the move of channel `ch` or of channel 16, or a channel fault. -/
theorem State.issueStep_cases (s : State) :
    ∃ c q ch' d, ((s.ch.toNat < 16 ∧ c = s.ch.setWidth 8 ∧ q = SeqState.issue ∧ ch' = s.ch + 1#5 ∧ d = s.dcnt) ∨
        (16 ≤ s.ch.toNat ∧ c = 16#8 ∧ q = afterMoves s.cfg.variant ∧ ch' = 1#5 ∧ d = loadDelay s.cfg s.dcnt)) ∧
      ((channelOk s.cfg.rangeCheck c = true ∧ s.issueStep =
          .ok { s.startTx (moveFrame c ((s.ep.target s.cfg).setWidth 16) (s.cfg.speedMove.setWidth 8)) 4#3 q with
                ch := ch', dcnt := d }) ∨
       (channelOk s.cfg.rangeCheck c = false ∧ s.issueStep = .error .fChannel)) := by
  unfold State.issueStep
  split
  · next hc =>
    refine ⟨s.ch.setWidth 8, .issue, s.ch + 1#5, s.dcnt, .inl ⟨hc, rfl, rfl, rfl, rfl⟩, ?_⟩
    rcases s.issueMove_cases (s.ch.setWidth 8) ((s.ep.target s.cfg).setWidth 16) (s.cfg.speedMove.setWidth 8) .issue
      with ⟨a, e⟩ | ⟨a, e⟩
    · exact .inl ⟨a, by rw [e]; rfl⟩
    · exact .inr ⟨a, by rw [e]; rfl⟩
  · next hc =>
    refine ⟨16#8, afterMoves s.cfg.variant, 1#5, loadDelay s.cfg s.dcnt,
      .inr ⟨Nat.le_of_not_lt hc, rfl, rfl, rfl, rfl⟩, ?_⟩
    rcases s.issueMove_cases 16#8 ((s.ep.target s.cfg).setWidth 16) (s.cfg.speedMove.setWidth 8)
      (afterMoves s.cfg.variant) with ⟨a, e⟩ | ⟨a, e⟩
    · exact .inl ⟨a, by rw [e]; rfl⟩
    · exact .inr ⟨a, by rw [e]; rfl⟩

/-- S_POLL_REQ never faults: channel 1 passes the check under both settings. -/
theorem State.pollReqStep_eq (s : State) :
    s.pollReqStep = .ok (s.startTx (requestFrame s.frm 1#8) 2#3 .pollResp) := by
  rcases s.issueFbreq_cases sentinelCh .pollResp with ⟨_, e⟩ | ⟨a, _⟩
  · exact e
  · exfalso
    revert a
    cases s.cfg.rangeCheck <;> decide

/-- S_TEST: unwritten, arrived, the last unsuccessful test, or another poll. -/
theorem State.testStep_cases (s : State) :
    (s.pf.read 1 = none ∧ s.testStep = .error .fUnwritten) ∨
    ∃ v, s.pf.read 1 = some v ∧
      ((v = s.ep.target s.cfg ∧ s.testStep = .ok s.nextPhase) ∨
       (v ≠ s.ep.target s.cfg ∧ pollExpired s.cfg.pollLimit s.pcnt = true ∧ s.testStep = .error .eArrival) ∨
       (v ≠ s.ep.target s.cfg ∧ pollExpired s.cfg.pollLimit s.pcnt = false ∧
         s.testStep = .ok { s with pcnt := pollCount s.cfg.pollLimit s.pcnt, seq := .pollReq })) := by
  have h1 : (sentinelCh.setWidth 5).toNat = 1 := by decide
  unfold State.testStep
  rcases s.arrived_cases (sentinelCh.setWidth 5) ((s.ep.target s.cfg).setWidth 16) with ⟨v, hv, e⟩ | ⟨hv, e⟩
  · rw [h1] at hv
    refine .inr ⟨v, hv, ?_⟩
    rw [e, positionMatches_setWidth]
    by_cases hc : v = s.ep.target s.cfg
    · exact .inl ⟨hc, by simp [hc]⟩
    · cases hp : pollExpired s.cfg.pollLimit s.pcnt
      · exact .inr (.inr ⟨hc, rfl, by simp [hc]⟩)
      · exact .inr (.inl ⟨hc, rfl, by simp [hc]⟩)
  · rw [h1] at hv
    exact .inl ⟨hv, by rw [e]⟩

/-- The sequencer: every next state, by the state `seq` was in. -/
theorem seqStep_inv {s t : State} (h : seqStep s = .next t) :
    (s.seq = .warm ∧ t = s.settle s.warmStep) ∨
    (s.seq = .waitPress ∧ (t = s ∨ t = { s with seq := .waitRelease })) ∨
    (s.seq = .waitRelease ∧ (t = s ∨ t = s.startPhase)) ∨
    (s.seq = .waitLow ∧ (t = s ∨ t = s.startPhase)) ∨
    (s.seq = .issue ∧ t = s.settle s.issueStep) ∨
    (s.seq = .pollReq ∧ t = s.startTx (requestFrame s.frm 1#8) 2#3 .pollResp) ∨
    (s.seq = .pollResp ∧ t = s.issueFbrecv .test) ∨
    (s.seq = .test ∧ t = s.settle s.testStep) ∨
    (s.seq = .delay ∧ ((s.dcnt = 0#32 ∧ t = s.nextPhase) ∨ (s.dcnt ≠ 0#32 ∧ t = { s with dcnt := s.dcnt - 1#32 }))) ∨
    (s.halted = true ∧ t = s) := by
  unfold seqStep at h
  split at h
  all_goals first
    | (rename_i hq; simp only [Host.Outcome.next.injEq] at h; subst h)
    | cases h
  · exact .inl ⟨hq, rfl⟩
  · refine .inr (.inl ⟨hq, ?_⟩)
    unfold State.waitPressStep
    split <;> simp
  · refine .inr (.inr (.inl ⟨hq, ?_⟩))
    unfold State.waitReleaseStep
    split <;> simp
  · refine .inr (.inr (.inr (.inl ⟨hq, ?_⟩)))
    unfold State.waitLowStep
    split <;> simp
  · exact .inr (.inr (.inr (.inr (.inl ⟨hq, rfl⟩))))
  · exact .inr (.inr (.inr (.inr (.inr (.inl ⟨hq, by rw [State.pollReqStep_eq]; rfl⟩)))))
  · exact .inr (.inr (.inr (.inr (.inr (.inr (.inl ⟨hq, rfl⟩))))))
  · exact .inr (.inr (.inr (.inr (.inr (.inr (.inr (.inl ⟨hq, rfl⟩)))))))
  · refine .inr (.inr (.inr (.inr (.inr (.inr (.inr (.inr (.inl ⟨hq, ?_⟩))))))))
    unfold State.delayStep
    split
    · next hd => exact .inl ⟨hd, rfl⟩
    · next hd => exact .inr ⟨hd, rfl⟩
  · simp [State.halted, hq, SeqState.isHalted]
  · simp [State.halted, hq, SeqState.isHalted]

/-! ### Every next state of a step, said once -/

/-- What a frame on the outbound link is: the frame the latched bytes decode to, or the bytes as they stand. -/
def SentFrame (s : State) (f : Frame) (n : BitVec 3) : Prop :=
  (∃ c h l sp, latchedInstr s.frm s.flen = some (.frameMove c h l sp) ∧ f = moveFrameOf c h l sp ∧ n = 4#3) ∨
  (∃ c, latchedInstr s.frm s.flen = some (.frameFbreq c) ∧ f = requestFrameOf s.frm c ∧ n = 2#3) ∨
  (latchedInstr s.frm s.flen = none ∧ f = s.frm ∧ n = s.flen)

/-- Why a step halts the block, with the conditions of R201's causes. -/
inductive HaltReason (s : State) : HaltCause → Prop
  | timeout : s.op ≠ .idle → waitExpired s.cfg.waitPolicy s.wcnt = true → HaltReason s .eTimeout
  | index : s.op = .rx → HaltReason s .fFbIndex
  | position : s.op = .rx → HaltReason s .fFbPosition
  | channel (c : BitVec 8) : s.cfg.mode = .seq → s.seq = .warm ∨ s.seq = .issue →
      (s.ch.toNat < 16 ∧ c = s.ch.setWidth 8) ∨ (16 ≤ s.ch.toNat ∧ c = 16#8) →
      channelOk s.cfg.rangeCheck c = false → HaltReason s .fChannel
  | unwritten : s.cfg.mode = .seq → s.seq = .test → HaltReason s .fUnwritten
  | arrival : s.cfg.mode = .seq → s.seq = .test → pollExpired s.cfg.pollLimit s.pcnt = true →
      HaltReason s .eArrival
  | host (c : HaltCause) : s.cfg.mode = .direct → c.haltState = .fault → HaltReason s c

/-- The state a halting step starts from: sampled, or with its byte taken, or with its command accepted. -/
def HaltsFrom (s s' : State) : Prop :=
  s' = s ∨ (s' = s.rxByte ∧ s.op = .rx ∧ s.env.rxReady = true) ∨
  (s' = s.accept ∧ s.op = .idle ∧ s.cfg.mode = .direct)

/-- Every next state t of a step, from the sampled state s: one constructor for each rule. -/
inductive StepResult (s t : State) : Prop
  | reset : s.env.rst = true → t = s.resetStep → StepResult s t
  | halted : s.env.rst = false → s.halted = true → t = s → StepResult s t
  | halt (s' : State) (c : HaltCause) : s.env.rst = false → s.halted = false → HaltReason s c → HaltsFrom s s' →
      t = s'.halt c → StepResult s t
  | send (f : Frame) (n : BitVec 3) : s.env.rst = false → s.halted = false → s.op = .tx → s.env.txReady = true →
      s.k.setWidth 3 = n - 1#3 → SentFrame s f n →
      t = { s.txByte (f.byte s.k) with wcnt := 0, op := .idle, k := 0#2 } → StepResult s t
  | sendMore (f : Frame) (n : BitVec 3) : s.env.rst = false → s.halted = false → s.op = .tx → s.env.txReady = true →
      s.k.setWidth 3 ≠ n - 1#3 → SentFrame s f n →
      t = { s.txByte (f.byte s.k) with wcnt := 0, k := s.k + 1#2 } → StepResult s t
  | wait : s.env.rst = false → s.halted = false → (s.op = .tx ∧ s.env.txReady = false) ∨ (s.op = .rx ∧ s.env.rxReady = false) →
      waitExpired s.cfg.waitPolicy s.wcnt = false →
      t = { s with wcnt := waitCount s.cfg.waitPolicy s.wcnt } → StepResult s t
  | take0 : s.env.rst = false → s.halted = false → s.op = .rx → s.env.rxReady = true → s.k = 0#2 →
      t = { s.rxByte with wcnt := 0, rxb0 := s.env.rxData, k := 1#2 } → StepResult s t
  | take1 : s.env.rst = false → s.halted = false → s.op = .rx → s.env.rxReady = true → s.k = 1#2 →
      t = { s.rxByte with wcnt := 0, rxb1 := s.env.rxData, k := 2#2 } → StepResult s t
  | store (i : BitVec 5) (v : Pos) : s.env.rst = false → s.halted = false → s.op = .rx → s.env.rxReady = true →
      s.k ≠ 0#2 → s.k ≠ 1#2 → decodeResponse s.rxb0 s.rxb1 s.env.rxData = .ok (i, v) → hasEntry i.toNat = true →
      t = { s.rxByte with pf := s.pf.write i.toNat v, resCh := some i, resPos := some v, wcnt := 0, op := .idle,
                          k := 0#2 } → StepResult s t
  | warm (c : BitVec 8) (q : SeqState) (ch' : BitVec 5) : s.env.rst = false → s.halted = false → s.op = .idle →
      s.cfg.mode = .seq → s.seq = .warm → channelOk s.cfg.rangeCheck c = true →
      (s.ch.toNat < 16 ∧ c = s.ch.setWidth 8 ∧ q = .warm ∧ ch' = s.ch + 1#5) ∨
        (16 ≤ s.ch.toNat ∧ c = 16#8 ∧ q = idleState s.cfg.variant ∧ ch' = 1#5) →
      t = { s.startTx (moveFrame c (s.cfg.posWarmup.setWidth 16) warmupSpeed) 4#3 q with ch := ch' } →
      StepResult s t
  | issue (c : BitVec 8) (q : SeqState) (ch' : BitVec 5) (d : BitVec 32) : s.env.rst = false → s.halted = false →
      s.op = .idle → s.cfg.mode = .seq → s.seq = .issue → channelOk s.cfg.rangeCheck c = true →
      (s.ch.toNat < 16 ∧ c = s.ch.setWidth 8 ∧ q = .issue ∧ ch' = s.ch + 1#5 ∧ d = s.dcnt) ∨
        (16 ≤ s.ch.toNat ∧ c = 16#8 ∧ q = afterMoves s.cfg.variant ∧ ch' = 1#5 ∧ d = loadDelay s.cfg s.dcnt) →
      t = { s.startTx (moveFrame c ((s.ep.target s.cfg).setWidth 16) (s.cfg.speedMove.setWidth 8)) 4#3 q with
            ch := ch', dcnt := d } → StepResult s t
  | same : s.env.rst = false → s.halted = false → s.op = .idle → t = s → StepResult s t
  | press : s.env.rst = false → s.halted = false → s.op = .idle → s.cfg.mode = .seq → s.seq = .waitPress →
      t = { s with seq := .waitRelease } → StepResult s t
  | start : s.env.rst = false → s.halted = false → s.op = .idle → s.cfg.mode = .seq →
      s.seq = .waitRelease ∨ s.seq = .waitLow → t = s.startPhase → StepResult s t
  | pollReq : s.env.rst = false → s.halted = false → s.op = .idle → s.cfg.mode = .seq → s.seq = .pollReq →
      t = s.startTx (requestFrame s.frm 1#8) 2#3 .pollResp → StepResult s t
  | pollResp : s.env.rst = false → s.halted = false → s.op = .idle → s.cfg.mode = .seq → s.seq = .pollResp →
      t = s.issueFbrecv .test → StepResult s t
  | flip : s.env.rst = false → s.halted = false → s.op = .idle → s.cfg.mode = .seq →
      s.seq = .test ∨ s.seq = .delay → t = s.nextPhase → StepResult s t
  | again : s.env.rst = false → s.halted = false → s.op = .idle → s.cfg.mode = .seq → s.seq = .test →
      pollExpired s.cfg.pollLimit s.pcnt = false →
      t = { s with pcnt := pollCount s.cfg.pollLimit s.pcnt, seq := .pollReq } → StepResult s t
  | countDown : s.env.rst = false → s.halted = false → s.op = .idle → s.cfg.mode = .seq → s.seq = .delay →
      t = { s with dcnt := s.dcnt - 1#32 } → StepResult s t
  | hostMove (c : BitVec 8) (p : BitVec 16) (sp : BitVec 8) : s.env.rst = false → s.halted = false → s.op = .idle →
      s.cfg.mode = .direct → channelOk s.cfg.rangeCheck c = true →
      t = s.accept.startTx (moveFrame c p sp) 4#3 .hIdle → StepResult s t
  | hostFbreq (c : BitVec 8) : s.env.rst = false → s.halted = false → s.op = .idle → s.cfg.mode = .direct →
      channelOk s.cfg.rangeCheck c = true → t = s.accept.startTx (requestFrame s.frm c) 2#3 .hIdle → StepResult s t
  | hostFbrecv : s.env.rst = false → s.halted = false → s.op = .idle → s.cfg.mode = .direct →
      t = s.accept.issueFbrecv .hIdle → StepResult s t
  | hostArrtest (r : Bool) : s.env.rst = false → s.halted = false → s.op = .idle → s.cfg.mode = .direct →
      t = { s.accept with resArr := some r } → StepResult s t

/-- Every next state of a step is one of these. -/
theorem step_result {s t : State} (h : step s = .next t) : StepResult s.sample t := by
  rcases step_cases s with ⟨h1, e⟩ | ⟨h1, h2, e⟩ | ⟨h1, h2, ho, e⟩ | ⟨h1, h2, ho, e⟩ | ⟨h1, h2, ho, hm, e⟩ |
    ⟨h1, h2, ho, hm, e⟩ <;> rw [e] at h
  · simp only [Host.Outcome.next.injEq] at h; exact .reset h1 h.symm
  · simp only [Host.Outcome.next.injEq] at h; exact .halted h1 h2 h.symm
  · obtain ⟨f, n, hf, hd⟩ := txEngine_inv h
    rcases hd with ⟨a, b, e⟩ | ⟨a, b, e⟩ | ⟨_, a, e⟩ | ⟨r, a, e⟩
    · exact .send f n h1 h2 ho a b hf e
    · exact .sendMore f n h1 h2 ho a b hf e
    · exact .halt _ _ h1 h2 (.timeout (by simp [ho]) a) (.inl rfl) e
    · exact .wait h1 h2 (.inl ⟨ho, r⟩) a e
  · rcases rxEngine_inv h with ⟨a, b, e⟩ | ⟨a, b, e⟩ | ⟨a, b, b', c, _, hc, e⟩ | ⟨a, b, b', i, v, hd, hi, e⟩ |
      ⟨_, a, e⟩ | ⟨r, a, e⟩
    · exact .take0 h1 h2 ho a b e
    · exact .take1 h1 h2 ho a b e
    · rcases hc with rfl | rfl
      · exact .halt _ _ h1 h2 (.index ho) (.inr (.inl ⟨rfl, ho, a⟩)) e
      · exact .halt _ _ h1 h2 (.position ho) (.inr (.inl ⟨rfl, ho, a⟩)) e
    · exact .store i v h1 h2 ho a b b' hd hi e
    · exact .halt _ _ h1 h2 (.timeout (by simp [ho]) a) (.inl rfl) e
    · exact .wait h1 h2 (.inr ⟨ho, r⟩) a e
  · rcases seqStep_inv h with ⟨hs, e⟩ | ⟨hs, (e | e)⟩ | ⟨hs, (e | e)⟩ | ⟨hs, (e | e)⟩ | ⟨hs, e⟩ | ⟨hs, e⟩ |
      ⟨hs, e⟩ | ⟨hs, e⟩ | ⟨hs, (⟨_, e⟩ | ⟨_, e⟩)⟩ | ⟨hs, e⟩
    · obtain ⟨c, q, ch', hc, (⟨a, e'⟩ | ⟨a, e'⟩)⟩ := s.sample.warmStep_cases
      · exact .warm c q ch' h1 h2 ho hm hs a hc (by rw [e, e']; rfl)
      · exact .halt _ _ h1 h2 (.channel c hm (.inl hs) (hc.imp (fun h => ⟨h.1, h.2.1⟩) (fun h => ⟨h.1, h.2.1⟩)) a)
          (.inl rfl) (by rw [e, e']; rfl)
    · exact .same h1 h2 ho e
    · exact .press h1 h2 ho hm hs e
    · exact .same h1 h2 ho e
    · exact .start h1 h2 ho hm (.inl hs) e
    · exact .same h1 h2 ho e
    · exact .start h1 h2 ho hm (.inr hs) e
    · obtain ⟨c, q, ch', d, hc, (⟨a, e'⟩ | ⟨a, e'⟩)⟩ := s.sample.issueStep_cases
      · exact .issue c q ch' d h1 h2 ho hm hs a hc (by rw [e, e']; rfl)
      · exact .halt _ _ h1 h2 (.channel c hm (.inr hs) (hc.imp (fun h => ⟨h.1, h.2.1⟩) (fun h => ⟨h.1, h.2.1⟩)) a)
          (.inl rfl) (by rw [e, e']; rfl)
    · exact .pollReq h1 h2 ho hm hs e
    · exact .pollResp h1 h2 ho hm hs e
    · rcases s.sample.testStep_cases with ⟨_, e'⟩ | ⟨v, _, (⟨_, e'⟩ | ⟨_, a, e'⟩ | ⟨_, a, e'⟩)⟩
      · exact .halt _ _ h1 h2 (.unwritten hm hs) (.inl rfl) (by rw [e, e']; rfl)
      · exact .flip h1 h2 ho hm (.inl hs) (by rw [e, e']; rfl)
      · exact .halt _ _ h1 h2 (.arrival hm hs a) (.inl rfl) (by rw [e, e']; rfl)
      · exact .again h1 h2 ho hm hs a (by rw [e, e']; rfl)
    · exact .flip h1 h2 ho hm (.inr hs) e
    · exact .countDown h1 h2 ho hm hs e
    · exact absurd (show s.halted = true from hs) (by simp [h2])
  · rcases hostStep_inv h with ⟨_, e⟩ | ⟨c, hc, e⟩ | ⟨c, p, sp, a, e⟩ | ⟨c, a, e⟩ | e | ⟨r, e⟩
    · exact .same h1 h2 ho e
    · exact .halt _ c h1 h2 (.host c hm hc) (.inr (.inr ⟨rfl, ho, hm⟩)) e
    · exact .hostMove c p sp h1 h2 ho hm a e
    · exact .hostFbreq c h1 h2 ho hm a e
    · exact .hostFbrecv h1 h2 ho hm e
    · exact .hostArrtest r h1 h2 ho hm e

end Sys2Proof.Machine
end

