-- ==== Sys2Proof/Laws/Invariant.lean ====
section
/-! SUPPORT. The parts of the invariant: which frames are legal and what they decode to, what the channel check lets
through, the counters' bounds; and the step of each activity by the state it is chosen by. -/

namespace Sys2Proof.Machine

/-! ### The step of each activity -/

theorem step_tx {s : State} (h1 : s.nextEnv.rst = false) (h2 : s.halted = false) (h3 : s.op = .tx) :
    step s = txEngine s.sample := by
  rcases step_cases s with h | h | h | h | h | h <;> simp_all

theorem step_rx {s : State} (h1 : s.nextEnv.rst = false) (h2 : s.halted = false) (h3 : s.op = .rx) :
    step s = rxEngine s.sample := by
  rcases step_cases s with h | h | h | h | h | h <;> simp_all

theorem step_seq {s : State} (h1 : s.nextEnv.rst = false) (h2 : s.halted = false) (h3 : s.op = .idle)
    (h4 : s.cfg.mode = .seq) : step s = seqStep s.sample := by
  rcases step_cases s with h | h | h | h | h | h <;> simp_all

theorem step_host {s : State} (h1 : s.nextEnv.rst = false) (h2 : s.halted = false) (h3 : s.op = .idle)
    (h4 : s.cfg.mode = .direct) : step s = hostStep s.sample := by
  rcases step_cases s with h | h | h | h | h | h <;> simp_all

theorem State.sendByte_wait (f : Frame) (n : BitVec 3) {s : State} (h : s.env.txReady = false) :
    s.sendByte f n = s.waitTick := by
  simp [State.sendByte, h]

/-! ### The bytes of frames -/

theorem higher_eq (p : BitVec 16) : higher p = plainByte (p.extractLsb' 6 6) := by
  apply BitVec.eq_of_toNat_eq
  rw [higher_toNat]
  simp [plainByte, Nat.shiftRight_eq_div_pow]
  omega

theorem lower_eq (p : BitVec 16) : lower p = plainByte (p.extractLsb' 0 6) := by
  apply BitVec.eq_of_toNat_eq
  rw [lower_toNat]
  simp [plainByte]
  omega

theorem ramp_eq (sp : BitVec 8) : ramp sp = plainByte (sp.extractLsb' 0 6) := by
  apply BitVec.eq_of_toNat_eq
  rw [ramp_toNat]
  simp [plainByte]
  omega

/-- The halves of a 12-bit position zero-extended to an operand. -/
theorem higher_setWidth (p : Pos) : higher (p.setWidth 16) = plainByte (p.extractLsb' 6 6) := by
  apply BitVec.eq_of_toNat_eq
  rw [higher_toNat]
  have := p.isLt
  simp [plainByte, BitVec.extractLsb'_toNat, Nat.shiftRight_eq_div_pow]
  omega

theorem lower_setWidth (p : Pos) : lower (p.setWidth 16) = plainByte (p.extractLsb' 0 6) := by
  apply BitVec.eq_of_toNat_eq
  rw [lower_toNat]
  have := p.isLt
  simp [plainByte, BitVec.extractLsb'_toNat]
  omega

theorem ramp_setWidth (sp : BitVec 6) : ramp (sp.setWidth 8) = plainByte sp := by revert sp; decide

theorem append_eq_wireByte (c : BitVec 6) : (0b01 : BitVec 2) ++ c = wireByte c := by revert c; decide

theorem append_eq_plainByte (c : BitVec 6) : (0b00 : BitVec 2) ++ c = plainByte c := by revert c; decide

/-- The channels the sequencer drives pass the check, and their wire bytes. -/
theorem channel_of_counter (c : BitVec 5) (h1 : 1 ≤ c.toNat) (h2 : c.toNat ≤ 16) :
    (∀ rc, channelOk rc (c.setWidth 8) = true) ∧ wire (c.setWidth 8) = BitVec.ofNat 8 (0x40 + c.toNat) ∧
    BitVec.ofNat 8 (0x40 + c.toNat) = wireByte (BitVec.ofNat 6 c.toNat) := by
  have key : channelOk .checked (c.setWidth 8) = true ∧ channelOk .unchecked (c.setWidth 8) = true ∧
      wire (c.setWidth 8) = BitVec.ofNat 8 (0x40 + c.toNat) ∧
      BitVec.ofNat 8 (0x40 + c.toNat) = wireByte (BitVec.ofNat 6 c.toNat) := by
    revert h1 h2
    revert c
    decide
  exact ⟨fun rc => by cases rc; exact key.1; exact key.2.1, key.2.2⟩

/-! ### Legal frames -/

theorem plainByte_of_le {b : Byte} (h : b ≤ 0x3F#8) : ∃ x, b = plainByte x := by
  have ht : topTwo b = 0#2 := by
    apply BitVec.eq_of_toNat_eq
    rw [topTwo_toNat]
    simp [BitVec.le_def] at h
    simp
    omega
  exact ⟨lowSix b, (plainByte_lowSix ht).symm⟩

theorem wireByte_of_legal {rc : RangeCheck} {b : Byte} (h : wireLegal rc b = true) : ∃ x, b = wireByte x := by
  have ht : topTwo b = 1#2 := by
    apply BitVec.eq_of_toNat_eq
    rw [topTwo_toNat]
    cases rc <;> simp [wireLegal, BitVec.le_def] at h <;> simp <;> omega
  exact ⟨lowSix b, (wireByte_lowSix ht).symm⟩

/-- A legal latched frame is a move frame or a request frame, and decodes to it. -/
theorem frame_cases {rc : RangeCheck} {f : Frame} {n : BitVec 3} (h : frameLegal rc f n = true) :
    (∃ c h l sp, n = 4 ∧ wireLegal rc (wireByte c) = true ∧
      f = ⟨wireByte c, plainByte h, plainByte l, plainByte sp⟩ ∧ latchedInstr f n = some (.frameMove c h l sp)) ∨
    (∃ c, n = 2 ∧ f.b0 = 0x40 ∧ f.b1 = wireByte c ∧ wireLegal rc (wireByte c) = true ∧
      latchedInstr f n = some (.frameFbreq c)) := by
  unfold frameLegal at h
  split at h
  · next hn =>
    left
    simp only [Bool.and_eq_true, decide_eq_true_eq] at h
    obtain ⟨⟨⟨h0, h1⟩, h2⟩, h3⟩ := h
    obtain ⟨c, hc⟩ := wireByte_of_legal h0
    obtain ⟨x, hx⟩ := plainByte_of_le h1
    obtain ⟨y, hy⟩ := plainByte_of_le h2
    obtain ⟨z, hz⟩ := plainByte_of_le h3
    refine ⟨c, x, y, z, hn, hc ▸ h0, ?_, ?_⟩
    · cases f; simp_all
    · simp [latchedInstr, hn, decode, decodeMoveFrame, hc, hx, hy, hz, Except.toOption]
  · right
    simp only [Bool.and_eq_true, decide_eq_true_eq] at h
    obtain ⟨⟨hn, h0⟩, h1⟩ := h
    obtain ⟨c, hc⟩ := wireByte_of_legal h1
    refine ⟨c, hn, h0, hc, hc ▸ h1, ?_⟩
    simp [latchedInstr, hn, decode, decodeFbreqFrame, hc, h0, Except.toOption]

theorem frameLegal_move {rc : RangeCheck} {c : BitVec 8} (h : channelOk rc c = true) (p : BitVec 16)
    (sp : BitVec 8) : frameLegal rc (moveFrame c p sp) 4#3 = true := by
  have hw : wireLegal rc (wire c) = true := by revert h; revert c; cases rc <;> decide
  have hp : ∀ x : BitVec 6, plainByte x ≤ 0x3F#8 := by decide
  simp [frameLegal, moveFrame, hw, higher_eq, lower_eq, ramp_eq, hp]

theorem frameLegal_request {rc : RangeCheck} {c : BitVec 8} (h : channelOk rc c = true) (f : Frame) :
    frameLegal rc (requestFrame f c) 2#3 = true := by
  have hw : wireLegal rc (wire c) = true := by revert h; revert c; cases rc <;> decide
  simp [frameLegal, requestFrame, hw]

/-! ### What the invariant says in one place -/

theorem Inv.tx {s : State} (h : Inv s) (ht : s.op = .tx) :
    s.halted = false ∧ frameLegal s.cfg.rangeCheck s.frm s.flen = true ∧ s.k.toNat < s.flen.toNat := by
  have he := h.2.2.1
  simp [State.engineLegal, ht] at he
  exact ⟨he.1.1, he.1.2, he.2⟩

/-- The counters start below every legal bound. -/
theorem Config.counters_start (c : Config) :
    waitLegal c.waitPolicy 0 = true ∧ pollLegal c.pollLimit 0 = true := by
  have hc := c.legal
  simp [Params.legal] at hc
  obtain ⟨⟨_, a⟩, b⟩ := hc
  refine ⟨?_, ?_⟩
  · cases h : c.waitPolicy <;> simp [h, WaitPolicy.legal, waitLegal] at *
    omega
  · cases h : c.pollLimit <;> simp [h, PollLimit.legal, pollLegal] at *
    omega

theorem waitLegal_count {p : WaitPolicy} {w : Nat} (hw : waitExpired p w = false) (h : waitLegal p w = true) :
    waitLegal p (waitCount p w) = true := by
  cases p with
  | infinite => exact h
  | bounded n =>
    have h1 : w + 1 ≠ n := of_decide_eq_false hw
    have h2 : w < n := of_decide_eq_true h
    exact decide_eq_true (show w + 1 < n by omega)

theorem pollLegal_count {p : PollLimit} {n : Nat} (hw : pollExpired p n = false) (h : pollLegal p n = true) :
    pollLegal p (pollCount p n) = true := by
  cases p with
  | unbounded => exact h
  | limit m =>
    have h1 : n + 1 ≠ m := of_decide_eq_false hw
    have h2 : n < m := of_decide_eq_true h
    exact decide_eq_true (show n + 1 < m by omega)

theorem err_of_running {s : State} (h : s.errLegal = true) (hh : s.halted = false) : s.err = none := by
  cases he : s.err with
  | none => rfl
  | some c =>
    simp [State.errLegal, he] at h
    simp [State.halted, h] at hh
    cases c <;> cases hh

end Sys2Proof.Machine
end

