-- ==== Sys2Proof/Laws/PerInstr.lean ====
section
/-! SUPPORT. The family FrameLength: the encoding of every instruction has the length of its format
(30_encoding.md R70). -/

namespace Sys2Proof.Laws

/-- The length in bits of the format of an instruction: a command word 34, a MOVE frame 4 bytes, an FBREQ frame
2, an FBRESP frame 3 (R70). -/
def FrameLength.expected : Instr → Nat
  | .move _ _ _ => 34
  | .fbreq _ => 34
  | .fbrecv => 34
  | .arrtest _ _ => 34
  | .frameMove _ _ _ _ => 32
  | .frameFbreq _ => 16
  | .frameFbresp _ _ _ => 24

/-- The encoding has that length. -/
def FrameLength.Statement (i : Instr) : Prop := (encode i).bits = FrameLength.expected i

theorem FrameLength.move (c : BitVec 8) (p : BitVec 16) (sp : BitVec 8) :
    FrameLength.Statement (.move c p sp) := rfl

theorem FrameLength.fbreq (c : BitVec 8) : FrameLength.Statement (.fbreq c) := rfl

theorem FrameLength.fbrecv : FrameLength.Statement .fbrecv := rfl

theorem FrameLength.arrtest (i : BitVec 8) (t : BitVec 16) : FrameLength.Statement (.arrtest i t) := rfl

theorem FrameLength.frameMove (c h l sp : BitVec 6) : FrameLength.Statement (.frameMove c h l sp) := rfl

theorem FrameLength.frameFbreq (c : BitVec 6) : FrameLength.Statement (.frameFbreq c) := rfl

theorem FrameLength.frameFbresp (e : BitVec 5) (h : BitVec 8) (l : BitVec 6) :
    FrameLength.Statement (.frameFbresp e h l) := rfl

end Sys2Proof.Laws
end

