-- ==== Sys2Proof/Laws/Run.lean ====
section
/-! SUPPORT. Runs of several steps: one step and then the rest, two runs end to end, and what listed inputs say of
the next step and of the rest. -/

namespace Sys2Proof.Machine

/-- A run of n + 1 steps is a step and a run of n. -/
theorem core_run_succ (M : Host.Core) {s t : M.State} (n : Nat) (h : M.step s = .next t) :
    M.run (n + 1) s = M.run n t := by
  rw [Host.Core.run, h]

theorem run_succ {s t : State} (n : Nat) (h : step s = .next t) :
    Host.Core.run Sys2Proof.core (n + 1) s = Host.Core.run Sys2Proof.core n t :=
  core_run_succ Sys2Proof.core n h

/-- A run of n + m steps is a run of n and a run of m. -/
theorem core_run_add (M : Host.Core) {s t : M.State} (n m : Nat) (h : M.run n s = .next t) :
    M.run (n + m) s = M.run m t := by
  induction n generalizing s with
  | zero =>
    have hst : s = t := by injection h
    rw [Nat.zero_add, hst]
  | succ n ih =>
    rw [Host.Core.run] at h
    rw [Nat.succ_add]
    split at h
    · next u hs => rw [Nat.succ_eq_add_one, core_run_succ M _ hs]; exact ih h
    · cases h
    · cases h

theorem run_add {s t : State} (n m : Nat) (h : Host.Core.run Sys2Proof.core n s = .next t) :
    Host.Core.run Sys2Proof.core (n + m) s = Host.Core.run Sys2Proof.core m t :=
  core_run_add Sys2Proof.core n m h

/-- The first listed input is the next step's. -/
theorem State.nextEnv_of_inputs {s : State} {e : Env} {l : List Env} (h : s.inputs = e :: l) : s.nextEnv = e := by
  unfold State.nextEnv
  rw [h]

/-- The coming inputs begin with the next step's, and go on after it. -/
theorem State.coming_zero (s : State) : s.coming 0 = s.nextEnv := by
  unfold State.coming State.nextEnv
  cases s.inputs <;> rfl

theorem State.coming_sample (s : State) (n : Nat) : s.sample.coming n = s.coming (n + 1) := by
  unfold State.coming
  rw [State.sample_inputs, State.sample_draws, Nat.add_assoc, Nat.add_comm 1 n]
  cases s.inputs <;> simp

/-- Listed inputs stay listed after the steps they are for. -/
theorem NoResetFor.drop {n m : Nat} {s t : State} (h : NoResetFor (n + m) s) (ht : t.inputs = s.inputs.drop n) :
    NoResetFor m t := by
  obtain ⟨a, b⟩ := h
  refine ⟨by rw [ht, List.length_drop]; omega, fun e he => b e ?_⟩
  rw [ht, List.take_drop] at he
  exact List.mem_of_mem_drop he

theorem SendReady.drop {n m : Nat} {s t : State} (h : SendReady (n + m) s) (ht : t.inputs = s.inputs.drop n) :
    SendReady m t := by
  obtain ⟨a, b⟩ := h
  refine ⟨by rw [ht, List.length_drop]; omega, fun e he => b e ?_⟩
  rw [ht, List.take_drop] at he
  exact List.mem_of_mem_drop he

/-- Ready for more steps, ready for fewer. -/
theorem SendReady.mono {n m : Nat} {s : State} (h : SendReady m s) (hn : n ≤ m) : SendReady n s :=
  ⟨Nat.le_trans hn h.1, fun e he => h.2 e ((List.take_prefix_take_left hn).subset he)⟩

theorem NoResetFor.mono {n m : Nat} {s : State} (h : NoResetFor m s) (hn : n ≤ m) : NoResetFor n s :=
  ⟨Nat.le_trans hn h.1, fun e he => h.2 e ((List.take_prefix_take_left hn).subset he)⟩

/-- What `SendReady` says of the next step. -/
theorem SendReady.next {n : Nat} {s : State} (h : SendReady (n + 1) s) :
    s.nextEnv.rst = false ∧ s.nextEnv.txReady = true := by
  obtain ⟨a, b⟩ := h
  cases hi : s.inputs with
  | nil => simp [hi] at a
  | cons e l => rw [State.nextEnv_of_inputs hi]; exact b e (by simp [hi])

theorem NoResetFor.next {n : Nat} {s : State} (h : NoResetFor (n + 1) s) : s.nextEnv.rst = false := by
  obtain ⟨a, b⟩ := h
  cases hi : s.inputs with
  | nil => simp [hi] at a
  | cons e l => rw [State.nextEnv_of_inputs hi]; exact b e (by simp [hi])

end Sys2Proof.Machine
end

