-- ==== Sys2Proof/Tests/Slice0.lean ====
section
/-! SUPPORT. Tests. Expected values are the spec's own (95_test_vectors.md, the corner-case tables R108, R122, R130,
R146) or worked out by hand from its rules; and, for every statement with hypotheses, a concrete state and
operands that meet them (`witness_…`). -/

namespace Sys2Proof.Tests

open Sys2Proof.Machine

/-! ### Helpers -/

/-- POS_A 1300, POS_B 2000, POS_WARMUP 1500, SPEED_MOVE 10, DELAY_BUDGET 2. -/
def params (m : Mode) (v : Variant) : Params :=
  { mode := m, variant := v, rangeCheck := .checked, waitPolicy := .infinite, pollLimit := .unbounded,
    posA := 1300, posB := 2000, posWarmup := 1500, speedMove := 10, delayBudget := 2 }

def direct : Config := ⟨params .direct .v1Feedback, by decide⟩
def v1 : Config := ⟨params .seq .v1Feedback, by decide⟩
def v2 : Config := ⟨params .seq .v2Delay, by decide⟩
/-- DIRECT, UNCHECKED, BOUNDED(2). -/
def bounded : Config :=
  ⟨{ params .direct .v1Feedback with rangeCheck := .unchecked, waitPolicy := .bounded 2 }, by decide⟩
/-- SEQ, Variant 1, a limit of one poll. -/
def limited : Config := ⟨{ params .seq .v1Feedback with pollLimit := .limit 1 }, by decide⟩
def limited2 : Config := ⟨{ params .seq .v1Feedback with pollLimit := .limit 2 }, by decide⟩

/-- The reset state of a configuration, with inputs listed. -/
def start (c : Config) (l : List Env) : State := { State.resetFor c with inputs := l }

def txReady : Env := { Env.quiet with txReady := true }
def rxByte (b : Byte) : Env := { Env.quiet with rxReady := true, rxData := b }
def pressed : Env := { Env.quiet with startN := false }
def resetInput : Env := { Env.quiet with rst := true }
def command (w : CmdWord) : Env := { Env.quiet with cmdValid := true, cmdWord := w }

/-- What a next state shows of itself; nothing where there is none. -/
def after {α : Type} (o : Host.Outcome State Fault Refusal) (f : State → α) : Option α :=
  match o with
  | .next t => some (f t)
  | .fault _ => none
  | .refused _ => none

/-- A block sending the frame {0x41, 0x14, 0x14, 0x00}, byte k due. -/
def sending (c : Config) (k : BitVec 2) (l : List Env) : State :=
  { start c l with frm := ⟨0x41, 0x14, 0x14, 0x00⟩, flen := 4, k := k, op := .tx }

/-- A block sending the request {0x40, 0x41}. -/
def requesting (c : Config) (k : BitVec 2) (l : List Env) : State :=
  { start c l with frm := ⟨0x40, 0x41, 0, 0⟩, flen := 2, k := k, op := .tx }

/-- A block receiving, with e and h already taken. -/
def receiving (c : Config) (k : BitVec 2) (e h : Byte) (l : List Env) : State :=
  { start c l with rxb0 := e, rxb1 := h, k := k, op := .rx }

/-- A sequencer at a state of the loop or of the start waits. -/
def inSeq (c : Config) (q : SeqState) (l : List Env) : State := { start c l with seq := q }

/-! ### WellFormed: one ill-formed term for each check (30_encoding.md R81; 00_scope.md R11, R14, R15) -/

theorem test_channel_out_of_field : (Asm.fbreq 256).wf = false ∧ (Asm.fbreq 255).wf = true := by decide
theorem test_poll_out_of_field : (Asm.poll 256).wf = false ∧ (Asm.poll 255).wf = true := by decide
theorem test_index_out_of_field : (Asm.arrtest 256 0).wf = false ∧ (Asm.arrtest 255 65535).wf = true := by decide
theorem test_target_out_of_field : (Asm.arrtest 1 65536).wf = false := by decide
theorem test_move_channel_out_of_field : (Asm.move 256 0 0).wf = false := by decide
theorem test_move_position_out_of_field : (Asm.move 1 65536 0).wf = false := by decide
theorem test_move_speed_out_of_field : (Asm.move 1 0 256).wf = false ∧ (Asm.move 255 65535 255).wf = true := by decide
theorem test_moveall_position_out_of_field : (Asm.moveall 65536 0).wf = false := by decide
theorem test_moveall_speed_out_of_field : (Asm.moveall 0 256).wf = false := by decide
theorem test_ill_formed_is_not_assembled : assemble (.move 1 65536 0) = none := by decide
theorem test_speed_move_zero_is_refused : ({ params .seq .v1Feedback with speedMove := 0 } : Params).legal = false := by
  decide
theorem test_bounded_zero_is_refused :
    ({ params .seq .v1Feedback with waitPolicy := .bounded 0 } : Params).legal = false := by decide
theorem test_limit_zero_is_refused :
    ({ params .seq .v1Feedback with pollLimit := .limit 0 } : Params).legal = false := by decide

/-! ### Decoding: words written out from R74, R71, R75, R76 -/

theorem test_decode_move :
    decode (.command (((0b00#2 ++ 0b00000001#8) ++ 0b0000010100010100#16) ++ 0b00000000#8)) =
      .ok (.move 1 1300 0) := by decide
theorem test_decode_fbreq :
    decode (.command (((0b01#2 ++ 0b00010110#8) ++ 0b1010101010101010#16) ++ 0b11111111#8)) =
      .ok (.fbreq 22) := by decide
theorem test_decode_fbrecv :
    decode (.command (((0b10#2 ++ 0b11111111#8) ++ 0b1111111111111111#16) ++ 0b01010101#8)) = .ok .fbrecv := by decide
theorem test_decode_arrtest :
    decode (.command (((0b11#2 ++ 0b00010000#8) ++ 0b0000111111111111#16) ++ 0b10000000#8)) =
      .ok (.arrtest 16 4095) := by decide
theorem test_decode_frame_move :
    decode (.outbound [0b01000001, 0b00010100, 0b00010100, 0b00001010]) = .ok (.frameMove 1 20 20 10) := by decide
theorem test_decode_frame_fbreq : decode (.outbound [0b01000000, 0b01000001]) = .ok (.frameFbreq 1) := by decide
theorem test_decode_frame_fbresp :
    decode (.inbound [0b11100001, 0b00000000, 0b11111111]) = .ok (.frameFbresp 1 0 0b111111) := by decide

theorem test_rejects_length : decode (.outbound [0x41, 0x14, 0x14]) = .error .badLength ∧
    decode (.inbound [0x01, 0x14]) = .error .badLength := by decide
theorem test_rejects_channel_byte : decode (.outbound [0x01, 0x14, 0x14, 0x00]) = .error .notWireChannel ∧
    decode (.outbound [0xC1, 0x14, 0x14, 0x00]) = .error .notWireChannel := by decide
theorem test_rejects_wide_half : decode (.outbound [0x41, 0x54, 0x14, 0x00]) = .error .notSixBits := by decide
theorem test_rejects_marker : decode (.outbound [0x41, 0x41]) = .error .notRequestMarker := by decide
theorem test_rejects_first_byte : receiveOutbound [0x3F, 0x14] = .error .notFirstByte := by decide
/-- R243: a move frame for channel 0 is received as a 2-byte request and two stray bytes. -/
theorem test_channel_zero_move_is_received_as_request :
    receiveOutbound [0x40, 0x14, 0x14, 0x00] = .ok ([0x40, 0x14], [0x14, 0x00]) := by decide

/-- The table's own numbering of each row (spec/opcode_table.json; byte 0 highest). -/
theorem test_table_words :
    decodeTableWord 40 0x001051400 = some (.move 1 1300 0) ∧
    decodeTableWord 40 0x101000000 = some (.fbreq 1) ∧
    decodeTableWord 40 0x200000000 = some .fbrecv ∧
    decodeTableWord 40 0x301051400 = some (.arrtest 1 1300) ∧
    decodeTableWord 32 0x41141400 = some (.frameMove 1 20 20 0) ∧
    decodeTableWord 16 0x4041 = some (.frameFbreq 1) ∧
    decodeTableWord 24 0x011414 = some (.frameFbresp 1 20 20) := by decide

/-- R81: two lines with a comment and a hexadecimal operand. -/
theorem test_assemble_text :
    assembleText ['M', 'O', 'V', 'E', ' ', '1', ',', ' ', '0', 'x', '5', '1', '4', ',', ' ', '0', ' ', ';', 'a', '\n',
      'P', 'O', 'L', 'L', ' ', '2'] = some [.move 1 1300 0, .fbreq 2, .fbrecv] := by decide

/-! ### A placed table word runs as the first instruction after reset -/

theorem test_placed_move_runs :
    after (step (State.reset.withFetchWord 40 0x001051400)) (·.frm) = some ⟨0x41, 0x14, 0x14, 0x00⟩ := rfl
theorem test_placed_fbreq_runs : after (step (State.reset.withFetchWord 40 0x101000000)) (·.flen) = some 2 := rfl
theorem test_placed_fbrecv_runs : after (step (State.reset.withFetchWord 40 0x200000000)) (·.op) = some .rx := rfl
theorem test_placed_arrtest_runs :
    after (step (State.reset.withFetchWord 40 0x301051400)) (·.err) = some (some .fUnwritten) := rfl
theorem test_placed_frame_move_runs :
    after (step (State.reset.withFetchWord 32 0x41141400)) (·.tx) = some (some 0x41) := rfl
theorem test_placed_frame_fbreq_runs :
    after (step (State.reset.withFetchWord 16 0x4041)) (·.tx) = some (some 0x40) := rfl
theorem test_placed_frame_fbresp_runs :
    after (step (State.reset.withFetchWord 24 0x011414)) (fun t => t.pf.read 1) = some (some 1300) := rfl

/-! ### One step of each instruction -/

/-- R108: p = 0xFFFF and s = 0xFF are cut to six bits each; c = 22 passes under CHECKED. -/
theorem test_move_truncates :
    after (exec (.move 22 0xFFFF 0xFF) (start direct [])) (·.frm) = some ⟨0x56, 0x3F, 0x3F, 0x3F⟩ := by decide
/-- R108: c = 23 faults under CHECKED, before any byte. -/
theorem test_move_channel_fault :
    after (exec (.move 23 0 0) (start direct [])) (fun t => (t.seq, t.op, t.err, t.flen)) =
      some (.fault, .idle, some .fChannel, 0) := by decide
/-- R122: c = 16 is {0x40, 0x50}. -/
theorem test_fbreq_frame :
    after (exec (.fbreq 16) (start direct [])) (fun t => (t.frm.b0, t.frm.b1, t.flen, t.op)) =
      some (0x40, 0x50, 2, .tx) := by decide
/-- R102: c = 0x80 faults under UNCHECKED too. -/
theorem test_fbreq_channel_fault :
    after (exec (.fbreq 0x80) (start bounded [])) (·.err) = some (some .fChannel) := by decide
/-- R125. -/
theorem test_fbrecv_starts :
    after (exec .fbrecv { start direct [] with k := 3, wcnt := 5 }) (fun t => (t.k, t.wcnt, t.op, t.seq)) =
      some (0, 0, .rx, .hIdle) := by decide
/-- R146: the comparison is at 16 bits: 0x1514 is not 0x514. -/
theorem test_arrtest_compares_whole_target :
    after (exec (.arrtest 1 0x1514) { start direct [] with pf := [(1, 1300)] }) (·.resArr) = some (some false) := by
  decide
/-- R145, R206: index 33 is out of range though its low five bits are 1. -/
theorem test_arrtest_index_fault :
    after (exec (.arrtest 33 1300) { start direct [] with pf := [(1, 1300)] }) (·.err) = some (some .fArrIndex) := by
  decide
/-- R106: the fourth byte ends the operation. -/
theorem test_frame_move_last_byte :
    after (exec (.frameMove 1 20 21 10) { sending direct 3 [] with env := txReady }) (fun t => (t.tx, t.op, t.k)) =
      some (some 0x0A, .idle, 0) := by decide
/-- R71: byte 1 is the higher half. -/
theorem test_frame_move_second_byte :
    after (exec (.frameMove 1 20 21 10) { sending direct 1 [] with env := txReady }) (fun t => (t.tx, t.op, t.k)) =
      some (some 0x14, .tx, 2) := by decide
/-- R106: the second byte ends the request. -/
theorem test_frame_fbreq_last_byte :
    after (exec (.frameFbreq 16) { requesting direct 1 [] with env := txReady }) (fun t => (t.tx, t.op)) =
      some (some 0x50, .idle) := by decide
/-- R107: the second not-ready step under BOUNDED(2) halts. -/
theorem test_frame_fbreq_timeout :
    after (exec (.frameFbreq 16) { requesting bounded 1 [] with wcnt := 1 }) (fun t => (t.seq, t.err, t.k)) =
      some (.error, some .eTimeout, 1) := by decide
/-- R130: {0x10, 0x3F, 0x3F} is (16, 4095). -/
theorem test_frame_fbresp_writes :
    after (exec (.frameFbresp 16 0x3F 0x3F) (receiving direct 2 0 0 []))
      (fun t => (t.pf, t.resCh, t.resPos, t.op)) = some ([(16, 4095)], some 16, some 4095, .idle) := by decide
/-- R130: {0x01, 0x40, 0x00} has position 4096. -/
theorem test_frame_fbresp_position_fault :
    after (exec (.frameFbresp 1 0x40 0) (receiving direct 2 0 0 [])) (fun t => (t.err, t.pf)) =
      some (some .fFbPosition, []) := by decide

/-! ### One step of the block -/

/-- R161: the last warm-up move goes on to the start wait of Variant 2. -/
theorem test_warm_last_move :
    after (step { start v2 [txReady] with ch := 16 }) (fun t => (t.frm.b0, t.frm.b3, t.ch, t.seq)) =
      some (0x50, 0x00, 1, .waitLow) := by decide
/-- R174 and R206: a limit of one poll ends at the first unsuccessful test. -/
theorem test_arrival_error :
    after (step { inSeq limited .test [txReady] with pf := [(1, 1299)] }) (fun t => (t.seq, t.err)) =
      some (.error, some .eArrival) := by decide
/-- R80, D3: a command that faults is accepted all the same. -/
theorem test_faulting_command_is_accepted :
    after (step (start direct [command 0x017000000])) (fun t => (t.err, t.outputs.cmdAccept)) =
      some (some .fChannel, true) := by decide
/-- R203: a byte taken in the faulting step stays consumed. -/
theorem test_fault_keeps_byte_consumed :
    after (step (receiving direct 2 0x40 0x41 [rxByte 0x14])) (fun t => (t.err, t.rxTake, t.inbound, t.k)) =
      some (some .fFbIndex, true, [0x14], 2) := by decide
/-- R230: reset leaves S_FAULT and clears the file. -/
theorem test_reset_leaves_fault :
    after (step { inSeq v1 .fault [resetInput] with err := some .fUnwritten, pf := [(3, 7)] })
      (fun t => (t.seq, t.err, t.pf, t.ch)) = some (.warm, none, [], 1) := by decide
/-- The memory form is kept where a middle entry is written. -/
theorem test_memory_write_sorted :
    Memory.write [(1, 10), (5, 50)] 3 30 = [(1, 10), (3, 30), (5, 50)] ∧
    Memory.wf [(1, 10), (3, 30), (5, 50)] = true ∧ Memory.wf [(3, 30), (1, 10)] = false ∧
    Memory.wf [(17, 0)] = false ∧ Memory.wf [(0, 0)] = false := by decide

/-! ### Witnesses: the hypotheses of each statement are met -/

theorem witness_ReceiverTellsFramesApart :
    (63 : BitVec 6) ≠ 0 ∧ ((0x3F : Byte).toNat < 0x40) ∧ 0x80 ≤ (0x80 : Byte).toNat := by decide

theorem witness_AssemblerExpandsPseudoOperations : 255 < 256 ∧ 65535 < 65536 ∧ 15 < 16 ∧ 256 ≤ 256 := by decide

theorem witness_EncodeMoveGivesTheFrameBytes :
    ((22 : BitVec 8).toNat < 0x80 ∧ (RangeCheck.checked = .checked → 1 ≤ (22 : BitVec 8).toNat ∧
      (22 : BitVec 8).toNat ≤ 0x16)) ∧
    ((0 : BitVec 8).toNat < 0x80 ∧ (RangeCheck.unchecked = .checked → 1 ≤ (0 : BitVec 8).toNat ∧
      (0 : BitVec 8).toNat ≤ 0x16)) ∧
    ¬ ((23 : BitVec 8).toNat < 0x80 ∧ (RangeCheck.checked = .checked → 1 ≤ (23 : BitVec 8).toNat ∧
      (23 : BitVec 8).toNat ≤ 0x16)) ∧
    ¬ ((0x80 : BitVec 8).toNat < 0x80 ∧ (RangeCheck.unchecked = .checked → 1 ≤ (0x80 : BitVec 8).toNat ∧
      (0x80 : BitVec 8).toNat ≤ 0x16)) := by decide

theorem witness_DecodeFeedbackGivesChannelAndPosition :
    (1 ≤ (0x50 : Byte).toNat % 32 ∧ (0x50 : Byte).toNat % 32 ≤ 16 ∧
      64 * (0x3F : Byte).toNat + (0xFF : Byte).toNat % 64 ≤ 4095) ∧
    ¬ (1 ≤ (0x11 : Byte).toNat % 32 ∧ (0x11 : Byte).toNat % 32 ≤ 16 ∧
      64 * (0x00 : Byte).toNat + (0x00 : Byte).toNat % 64 ≤ 4095) := by decide

theorem witness_ResponseOfEncodedMoveDecodesBack : 1 ≤ (16 : BitVec 8).toNat ∧ (16 : BitVec 8).toNat ≤ 16 := by decide

/-- Both clauses of CommandIsTakenAndRun. -/
theorem witness_CommandIsTakenAndRun :
    ((start direct [command 0x001051400]).nextEnv.rst = false ∧ (start direct []).cfg.mode = .direct ∧
      (start direct []).seq = .hIdle ∧ (start direct []).op = .idle ∧
      (start direct [command 0x001051400]).nextEnv.cmdValid = true) ∧
    (start direct [Env.quiet]).nextEnv.cmdValid = false := by decide

theorem witness_TransmitStepRunsTheLatchedFrame :
    ((sending direct 3 [txReady]).nextEnv.rst = false ∧ (sending direct 3 [txReady]).halted = false ∧
      (sending direct 3 [txReady]).op = .tx ∧ (sending direct 3 [txReady]).flen = 4 ∧
      decode (.outbound [0x41, 0x14, 0x14, 0x00]) = .ok (.frameMove 1 20 20 0)) ∧
    ((requesting direct 1 [txReady]).nextEnv.rst = false ∧ (requesting direct 1 [txReady]).halted = false ∧
      (requesting direct 1 [txReady]).op = .tx ∧ (requesting direct 1 [txReady]).flen = 2 ∧
      decode (.outbound [0x40, 0x41]) = .ok (.frameFbreq 1)) := by decide

theorem witness_LatchedFrameIsAlwaysAFrame :
    (Inv (sending direct 3 [txReady]) ∧ (sending direct 3 [txReady]).nextEnv.rst = false ∧
      (sending direct 3 [txReady]).op = .tx) ∧
    (Inv (requesting direct 1 [txReady]) ∧ (requesting direct 1 [txReady]).nextEnv.rst = false ∧
      (requesting direct 1 [txReady]).op = .tx) := by decide

theorem witness_ThirdByteRunsTheResponse :
    (receiving direct 2 0x01 0x14 [rxByte 0x14]).nextEnv.rst = false ∧
    (receiving direct 2 0x01 0x14 [rxByte 0x14]).halted = false ∧
    (receiving direct 2 0x01 0x14 [rxByte 0x14]).op = .rx ∧ (receiving direct 2 0x01 0x14 [rxByte 0x14]).k = 2 ∧
    (receiving direct 2 0x01 0x14 [rxByte 0x14]).nextEnv.rxReady = true ∧
    decode (.inbound [0x01, 0x14, 0x14]) = .ok (.frameFbresp 1 20 20) := by decide

theorem witness_MoveLatchesItsFrameOrFaults :
    ((1 : BitVec 8).toNat < 0x80 ∧ ((start direct []).cfg.rangeCheck = .checked → 1 ≤ (1 : BitVec 8).toNat ∧
      (1 : BitVec 8).toNat ≤ 0x16)) ∧
    ¬ ((0 : BitVec 8).toNat < 0x80 ∧ ((start direct []).cfg.rangeCheck = .checked → 1 ≤ (0 : BitVec 8).toNat ∧
      (0 : BitVec 8).toNat ≤ 0x16)) := by decide

theorem witness_FbreqLatchesItsFrameOrFaults :
    ((0x7F : BitVec 8).toNat < 0x80 ∧ ((start bounded []).cfg.rangeCheck = .checked → 1 ≤ (0x7F : BitVec 8).toNat ∧
      (0x7F : BitVec 8).toNat ≤ 0x16)) ∧
    ¬ ((0xFF : BitVec 8).toNat < 0x80 ∧ ((start bounded []).cfg.rangeCheck = .checked →
      1 ≤ (0xFF : BitVec 8).toNat ∧ (0xFF : BitVec 8).toNat ≤ 0x16)) := by decide

/-- The three clauses of ArrtestComparesExactlyOrFaults at the ends of their ranges. -/
theorem witness_ArrtestComparesExactlyOrFaults :
    (1 ≤ (16 : BitVec 8).toNat ∧ (16 : BitVec 8).toNat ≤ 16 ∧ Memory.read [(16, 4095)] 16 = some 4095) ∧
    (1 ≤ (1 : BitVec 8).toNat ∧ (1 : BitVec 8).toNat ≤ 16 ∧ Memory.read [(16, 4095)] 1 = none) ∧
    ((0 : BitVec 8).toNat = 0 ∧ 17 ≤ (17 : BitVec 8).toNat) := by decide

theorem witness_MoveFrameSendsItsBytesInOrder :
    ({ sending direct 3 [] with env := txReady } : State).env.txReady = true := by decide

theorem witness_RequestFrameSendsMarkerThenChannel :
    ({ requesting direct 0 [] with env := txReady } : State).env.txReady = true ∧ (requesting direct 0 []).k = 0 ∧
    (requesting direct 1 []).k = 1 := by decide

theorem witness_WaitingToSend :
    (sending direct 1 []).env.txReady = false ∧ (sending direct 1 []).cfg.waitPolicy = .infinite ∧
    (sending bounded 1 []).env.txReady = false ∧ (sending bounded 1 []).cfg.waitPolicy = .bounded 2 ∧
    (sending bounded 1 []).wcnt + 1 ≠ 2 ∧ ({ sending bounded 1 [] with wcnt := 1 } : State).wcnt + 1 = 2 := by decide

theorem witness_WaitingToReceive :
    (receiving direct 1 0 0 [Env.quiet]).nextEnv.rst = false ∧ (receiving direct 1 0 0 [Env.quiet]).halted = false ∧
    (receiving direct 1 0 0 [Env.quiet]).op = .rx ∧ (receiving direct 1 0 0 [Env.quiet]).nextEnv.rxReady = false ∧
    (receiving direct 1 0 0 [Env.quiet]).cfg.waitPolicy = .infinite ∧
    (receiving bounded 1 0 0 [Env.quiet]).cfg.waitPolicy = .bounded 2 ∧
    (receiving bounded 1 0 0 [Env.quiet]).wcnt + 1 ≠ 2 ∧
    ({ receiving bounded 1 0 0 [Env.quiet] with wcnt := 1 } : State).wcnt + 1 = 2 := by decide

theorem witness_ReceiveHoldsTheFirstTwoBytes :
    (receiving direct 0 0 0 [rxByte 0xFF]).nextEnv.rst = false ∧ (receiving direct 0 0 0 [rxByte 0xFF]).halted = false ∧
    (receiving direct 0 0 0 [rxByte 0xFF]).op = .rx ∧ (receiving direct 0 0 0 [rxByte 0xFF]).nextEnv.rxReady = true ∧
    (receiving direct 0 0 0 []).k = 0 ∧ (receiving direct 1 0 0 []).k = 1 := by decide

/-- The three clauses of ResponseIsDecodedAndStored at the ends of their ranges. -/
theorem witness_ResponseIsDecodedAndStored :
    (1 ≤ (16 : BitVec 5).toNat ∧ (16 : BitVec 5).toNat ≤ 16 ∧ (63 : BitVec 8).toNat < 64) ∧
    ((0 : BitVec 5).toNat = 0 ∧ 17 ≤ (17 : BitVec 5).toNat) ∧ 64 ≤ (64 : BitVec 8).toNat := by decide

theorem witness_InstructionFrames :
    (∃ t, exec (.arrtest 1 5) (start direct []) = .next t) ∧ (∃ t, exec (.move 1 5 0) (start direct []) = .next t) ∧
    (∃ t, exec (.frameFbresp 16 63 63) (receiving direct 2 0 0 []) = .next t) ∧ 15 ≠ (16 : BitVec 5).toNat :=
  ⟨⟨_, rfl⟩, ⟨_, rfl⟩, ⟨_, rfl⟩, by decide⟩

theorem witness_HaltKeepsEveryOtherRegister :
    (start direct [command 0x017000000]).halted = false ∧
    after (step (start direct [command 0x017000000])) (·.halted) = some true ∧
    (inSeq v1 .test [txReady]).halted = false ∧ after (step (inSeq v1 .test [txReady])) (·.halted) = some true := by
  decide

theorem witness_HaltedBlockTakesNoStep :
    (inSeq v1 .fault [txReady]).halted = true ∧ (inSeq v1 .error [txReady]).halted = true ∧
    (inSeq v1 .fault [txReady]).nextEnv.rst = false := by decide

theorem witness_ResetStepGivesTheResetValues : (sending v1 2 [resetInput]).nextEnv.rst = true := by decide

/-- The hypotheses of EveryStepKeepsTheInvariant, EveryStepAnswersANextState and ConfigurationIsFixed. -/
theorem witness_EveryStepKeepsTheInvariant :
    Inv (start v1 [txReady]) ∧ ∃ t, step (start v1 [txReady]) = .next t := ⟨by decide, _, rfl⟩

theorem witness_OnlyTheDecoderWritesThePositionFile :
    (receiving direct 2 0x01 0x14 [rxByte 0x14]).nextEnv.rst = false ∧
    after (step (receiving direct 2 0x01 0x14 [rxByte 0x14])) (·.pf) = some [(1, 1300)] ∧
    (receiving direct 2 0x01 0x14 [rxByte 0x14]).pf = [] := by decide

theorem witness_OneByteAtMostMovesInAStep :
    after (step (sending v1 2 [txReady])) (·.tx) = some (some 0x14) ∧
    after (step (receiving v1 0 0 0 [rxByte 7])) (·.rxTake) = some true := by decide

/-- The clauses of EmittedBytesAreFrameBytes: a first and a later byte of a move, of a request. -/
theorem witness_EmittedBytesAreFrameBytes :
    (Inv (sending v1 0 [txReady]) ∧ after (step (sending v1 0 [txReady])) (·.tx) = some (some 0x41)) ∧
    (Inv (sending v1 3 [txReady]) ∧ after (step (sending v1 3 [txReady])) (·.tx) = some (some 0x00)) ∧
    (Inv (requesting v1 0 [txReady]) ∧ after (step (requesting v1 0 [txReady])) (·.tx) = some (some 0x40)) ∧
    (Inv (requesting v1 1 [txReady]) ∧ after (step (requesting v1 1 [txReady])) (·.tx) = some (some 0x41)) ∧
    v1.rangeCheck = .checked := by decide

theorem witness_DefaultPoliciesRaiseNoError :
    ((start v1 [txReady]).cfg.waitPolicy = .infinite ∧ (start v1 [txReady]).cfg.pollLimit = .unbounded ∧
      (start v1 [txReady]).seq ≠ .error) ∧
    Inv (start v1 [txReady]) ∧ (start v1 [txReady]).cfg.mode = .seq ∧ (start v1 [txReady]).halted = false ∧
    ∃ t, step (start v1 [txReady]) = .next t := ⟨by decide, by decide, by decide, by decide, _, rfl⟩

theorem witness_LinkInputsAreSampledOnlyByTheirEngine :
    (sending direct 1 []).op ≠ .rx ∧ (receiving direct 1 0 0 []).op ≠ .tx := by decide

theorem witness_SwitchIsSampledOnlyInTheStartWaits :
    ¬ ((inSeq v2 .issue []).op = .idle ∧ (inSeq v2 .issue []).cfg.mode = .seq ∧
      ((inSeq v2 .issue []).seq = .waitPress ∨ (inSeq v2 .issue []).seq = .waitRelease ∨
        (inSeq v2 .issue []).seq = .waitLow)) := by decide

theorem witness_CommandPortIsIgnoredUnlessReady :
    (start v1 [Env.quiet]).cfg.mode = .seq ∧ (sending direct 1 [Env.quiet]).op ≠ .idle ∧
    (inSeq direct .fault [Env.quiet]).halted = true ∧ ∃ t, step (sending direct 1 [Env.quiet]) = .next t :=
  ⟨rfl, by decide, rfl, _, rfl⟩

theorem witness_WarmupStepIssuesTheMove :
    (start v1 [Env.quiet]).nextEnv.rst = false ∧ (start v1 [Env.quiet]).cfg.mode = .seq ∧
    (start v1 [Env.quiet]).seq = .warm ∧ (start v1 [Env.quiet]).op = .idle ∧
    1 ≤ (start v1 [Env.quiet]).ch.toNat ∧ ({ start v1 [Env.quiet] with ch := 16 } : State).ch.toNat ≤ 16 := by decide

/-- The six clauses of StartWaitsFollowTheSwitch. -/
theorem witness_StartWaitsFollowTheSwitch :
    (inSeq v1 .waitPress [Env.quiet]).nextEnv.rst = false ∧ (inSeq v1 .waitPress [Env.quiet]).cfg.mode = .seq ∧
    (inSeq v1 .waitPress [Env.quiet]).op = .idle ∧ (inSeq v1 .waitPress [Env.quiet]).nextEnv.startN = true ∧
    (inSeq v1 .waitPress [pressed]).nextEnv.startN = false ∧ (inSeq v1 .waitRelease [pressed]).nextEnv.startN = false ∧
    (inSeq v1 .waitRelease [Env.quiet]).nextEnv.startN = true ∧ (inSeq v2 .waitLow [Env.quiet]).nextEnv.startN = true ∧
    (inSeq v2 .waitLow [pressed]).nextEnv.startN = false := by decide

theorem witness_PhaseStepIssuesTheMove :
    (inSeq v2 .issue [Env.quiet]).nextEnv.rst = false ∧ (inSeq v2 .issue [Env.quiet]).cfg.mode = .seq ∧
    (inSeq v2 .issue [Env.quiet]).seq = .issue ∧ (inSeq v2 .issue [Env.quiet]).op = .idle ∧
    1 ≤ (inSeq v2 .issue [Env.quiet]).ch.toNat ∧ ({ inSeq v2 .issue [Env.quiet] with ch := 16 } : State).ch.toNat ≤ 16 ∧
    (1300 : Pos) = (if (inSeq v2 .issue [Env.quiet]).ep = .a then v2.posA else v2.posB) := by decide

theorem witness_PollStatesIssueRequestAndReceive :
    (inSeq v1 .pollReq [Env.quiet]).nextEnv.rst = false ∧ (inSeq v1 .pollReq [Env.quiet]).cfg.mode = .seq ∧
    (inSeq v1 .pollReq [Env.quiet]).op = .idle ∧ (inSeq v1 .pollReq []).seq = .pollReq ∧
    (inSeq v1 .pollResp []).seq = .pollResp := by decide

/-- The clauses of ArrivalTestEndsOrRepeatsThePhase: arrived, unwritten, not arrived without a limit, at the last
test of a limit, before it. -/
theorem witness_ArrivalTestEndsOrRepeatsThePhase :
    ((inSeq v1 .test [Env.quiet]).nextEnv.rst = false ∧ (inSeq v1 .test [Env.quiet]).cfg.mode = .seq ∧
      (inSeq v1 .test [Env.quiet]).seq = .test ∧ (inSeq v1 .test [Env.quiet]).op = .idle ∧
      (1300 : Pos) = (if (inSeq v1 .test [Env.quiet]).ep = .a then v1.posA else v1.posB)) ∧
    Memory.read [(1, 1300)] 1 = some 1300 ∧ (inSeq v1 .test []).pf.read 1 = none ∧
    (Memory.read [(1, 1299)] 1 = some 1299 ∧ (1299 : Pos) ≠ 1300) ∧ v1.pollLimit = .unbounded ∧
    (limited.pollLimit = .limit 1 ∧ (inSeq limited .test []).pcnt + 1 = 1) ∧
    (limited2.pollLimit = .limit 2 ∧ (inSeq limited2 .test []).pcnt + 1 ≠ 2) := by decide

theorem witness_DelayStepCountsDown :
    (inSeq v2 .delay [Env.quiet]).nextEnv.rst = false ∧ (inSeq v2 .delay [Env.quiet]).cfg.mode = .seq ∧
    (inSeq v2 .delay [Env.quiet]).seq = .delay ∧ (inSeq v2 .delay [Env.quiet]).op = .idle ∧
    (inSeq v2 .delay []).dcnt = 0 ∧ ({ inSeq v2 .delay [] with dcnt := 0xFFFFFFFF } : State).dcnt ≠ 0 := by decide

theorem witness_OscillationLoopIsNeverLeft :
    Inv (inSeq v2 .delay [Env.quiet]) ∧ (inSeq v2 .delay [Env.quiet]).nextEnv.rst = false ∧
    loopState (inSeq v2 .delay [Env.quiet]).cfg.variant (inSeq v2 .delay [Env.quiet]).seq = true ∧
    ∃ t, step (inSeq v2 .delay [Env.quiet]) = .next t := ⟨by decide, by decide, by decide, _, rfl⟩

theorem witness_WarmupIsNeverRepeated :
    (inSeq v1 .test [Env.quiet]).nextEnv.rst = false ∧ (inSeq v1 .test [Env.quiet]).seq ≠ .warm ∧
    ∃ t, step (inSeq v1 .test [Env.quiet]) = .next t := ⟨by decide, by decide, _, rfl⟩

theorem witness_WarmupSendsSixteenMoves :
    (start v1 (List.replicate 80 txReady)).cfg.mode = .seq ∧ (start v1 []).seq = .warm ∧ (start v1 []).op = .idle ∧
    (start v1 []).ch = 1 ∧ SendReady 80 (start v1 (List.replicate 80 txReady)) := by decide

theorem witness_PhaseSendsSixteenMoves :
    (inSeq v2 .issue (List.replicate 80 txReady)).cfg.mode = .seq ∧ (inSeq v2 .issue []).seq = .issue ∧
    (inSeq v2 .issue []).op = .idle ∧ (inSeq v2 .issue []).ch = 1 ∧ v2.variant = .v2Delay ∧
    SendReady 80 (inSeq v2 .issue (List.replicate 80 txReady)) := by decide

theorem witness_DelayTakesItsCountPlusOneSteps :
    (inSeq v2 .delay [pressed]).cfg.mode = .seq ∧ (inSeq v2 .delay [pressed]).seq = .delay ∧
    (inSeq v2 .delay [pressed]).op = .idle ∧
    NoResetFor ((inSeq v2 .delay [pressed]).dcnt.toNat + 1) (inSeq v2 .delay [pressed]) := by decide

/-- The eight inputs of one exchange; the response echoes 0x41, 0x14, 0x14. -/
def exchange (e : Byte) : List Env :=
  [Env.quiet, txReady, txReady, Env.quiet, rxByte e, rxByte 0x14, rxByte 0x14, Env.quiet]

/-- The clauses of PolledInVain: no limit, the last test of a limit, a test before it. -/
theorem witness_PolledInVain :
    (inSeq v1 .pollReq (exchange 0x41)).cfg.pollLimit = .unbounded ∧
    ((inSeq limited .pollReq (exchange 0x41)).cfg.pollLimit = .limit 1 ∧
      (inSeq limited .pollReq (exchange 0x41)).pcnt + 1 = 1) ∧
    ((inSeq limited2 .pollReq (exchange 0x41)).cfg.pollLimit = .limit 2 ∧
      (inSeq limited2 .pollReq (exchange 0x41)).pcnt + 1 ≠ 2) := by decide

/-- Both last clauses of OneExchangeTestsTheSentinel: at endpoint A (1300) arrived, at B (2000) not. -/
theorem witness_OneExchangeTestsTheSentinel :
    (inSeq v1 .pollReq (exchange 0x41)).cfg.mode = .seq ∧ (inSeq v1 .pollReq []).seq = .pollReq ∧
    (inSeq v1 .pollReq []).op = .idle ∧ (∀ e ∈ exchange 0x41, e.rst = false) ∧
    txReady.txReady = true ∧ (rxByte 0x41).rxReady = true ∧ decodeFeedback 0x41 0x14 0x14 = some (1, 1300) ∧
    (1300 : Pos) = (if (inSeq v1 .pollReq []).ep = .a then v1.posA else v1.posB) ∧
    (2000 : Pos) = (if ({ inSeq v1 .pollReq [] with ep := .b } : State).ep = .a then v1.posA else v1.posB) := by decide

/-- The hypotheses of StaleSentinelIsTested and of its last three clauses. -/
theorem witness_StaleSentinelIsTested :
    (∀ e ∈ exchange 0x02, e.rst = false) ∧ decodeFeedback 0x02 0x14 0x14 = some (2, 1300) ∧ (2 : BitVec 5) ≠ 1 ∧
    (inSeq v1 .pollReq (exchange 0x02)).pf.read 1 = none ∧ Memory.read [(1, 1300)] 1 = some 1300 ∧
    (Memory.read [(1, 1299)] 1 = some 1299 ∧ (1299 : Pos) ≠ 1300) := by decide

/-- The hypotheses of BoundedWaitEndsInTimeout, sending and receiving, and of its first clause. -/
theorem witness_BoundedWaitEndsInTimeout :
    ((sending bounded 1 [Env.quiet, Env.quiet]).cfg.waitPolicy = .bounded 2 ∧
      (sending bounded 1 [Env.quiet, Env.quiet]).halted = false ∧
      (sending bounded 1 [Env.quiet, Env.quiet]).op = .tx ∧ (sending bounded 1 [Env.quiet, Env.quiet]).wcnt = 0 ∧
      NoResetFor 2 (sending bounded 1 [Env.quiet, Env.quiet]) ∧
      ∀ e ∈ (sending bounded 1 [Env.quiet, Env.quiet]).inputs.take 2, e.txReady = false) ∧
    ((receiving bounded 2 0 0 [txReady, txReady]).cfg.waitPolicy = .bounded 2 ∧
      (receiving bounded 2 0 0 [txReady, txReady]).halted = false ∧
      (receiving bounded 2 0 0 [txReady, txReady]).op = .rx ∧ (receiving bounded 2 0 0 [txReady, txReady]).wcnt = 0 ∧
      NoResetFor 2 (receiving bounded 2 0 0 [txReady, txReady]) ∧
      ∀ e ∈ (receiving bounded 2 0 0 [txReady, txReady]).inputs.take 2, e.rxReady = false) ∧ 1 < 2 := by decide

/-- A run with the last byte of a move due and the link always ready: the byte goes, then the block waits for a
command that never comes. -/
def lastByteRun : Nat → State
  | 0 => sending direct 3 []
  | n + 1 =>
    { sending direct 0 [] with
      op := .idle
      draws := n + 1
      env := txReady
      tx := if n = 0 then some 0x00 else none
      outbound := [0x00] }

theorem lastByteRun_isRun : IsRun (fun _ => txReady) lastByteRun := by
  intro n
  cases n with
  | zero => rfl
  | succ n => rfl

theorem witness_FairTransportEndsEveryOperation :
    IsRun (fun _ => txReady) lastByteRun ∧ NoReset (fun _ => txReady) ∧
    TransportFair (fun _ => txReady) lastByteRun ∧ Inv (lastByteRun 0) ∧
    (lastByteRun 0).cfg.waitPolicy = .infinite ∧ (lastByteRun 0).op ≠ .idle := by
  refine ⟨lastByteRun_isRun, fun _ => rfl, ⟨fun n _ => ⟨n, Nat.le_refl n, rfl⟩, fun n h => ?_⟩, by decide, rfl,
    by decide⟩
  cases n <;> cases h

theorem witness_IllegalParametersAreRefused : (params .seq .v1Feedback).accept = some v1 := by decide

/-- A DIRECT block halted with a cause. -/
def haltedBy (c : HaltCause) : State := { start direct [] with seq := c.haltState, err := some c }

/-- The clauses of OutputPortsShowTheState with premises. -/
theorem witness_OutputPortsShowTheState :
    (start v1 []).cfg.mode = .seq ∧
    ({ start direct [] with resCh := some 16, resPos := some 4095, resArr := some true } : State).cfg.mode = .direct ∧
    (({ start direct [] with resCh := some 16 } : State).resCh = some 16 ∧ (start direct []).resCh = none) ∧
    (({ start direct [] with resPos := some 4095 } : State).resPos = some 4095 ∧ (start direct []).resPos = none) ∧
    (({ start direct [] with resArr := some true } : State).resArr = some true ∧ (start direct []).resArr = none) ∧
    ((start direct []).err = none ∧ (haltedBy .fChannel).err = some .fChannel ∧
      (haltedBy .fFbIndex).err = some .fFbIndex ∧ (haltedBy .fFbPosition).err = some .fFbPosition ∧
      (haltedBy .fUnwritten).err = some .fUnwritten ∧ (haltedBy .fArrIndex).err = some .fArrIndex ∧
      (haltedBy .eTimeout).err = some .eTimeout ∧ (haltedBy .eArrival).err = some .eArrival) ∧
    (({ start direct [] with tx := some 0xFF } : State).tx = some 0xFF ∧ (start direct []).tx = none) := by decide

/-- A command that runs and one that faults, both taken. -/
theorem witness_CommandAcceptShowsEveryTakenCommand :
    (Inv (start direct [command 0x001051400]) ∧
      after (step (start direct [command 0x001051400])) (·.outputs.cmdAccept) = some true) ∧
    (Inv (start direct [command 0x017000000]) ∧
      after (step (start direct [command 0x017000000])) (·.outputs.cmdAccept) = some true) ∧
    (Inv (start direct [Env.quiet]) ∧ after (step (start direct [Env.quiet])) (·.outputs.cmdAccept) = some false) := by
  decide

/-- A run of a SEQ block that is in S_ERROR. -/
def errorRun : Nat → State
  | 0 => { inSeq v1 .error [] with err := some .eTimeout }
  | n + 1 => { inSeq v1 .error [] with err := some .eTimeout, draws := n + 1, env := txReady }

/-- Both ends of a run: in DIRECT mode with no further command, after the last byte; in S_ERROR. -/
theorem witness_EndOfARunIsKept :
    (IsRun (fun _ => txReady) lastByteRun ∧ EndsAt (fun _ => txReady) lastByteRun 1) ∧
    (IsRun (fun _ => txReady) errorRun ∧ EndsAt (fun _ => txReady) errorRun 0 ∧ (errorRun 0).cfg.mode = .seq) ∧
    txReady.rst = false := by
  refine ⟨⟨lastByteRun_isRun, .inr ⟨rfl, rfl, rfl, fun _ => rfl⟩⟩, ⟨fun n => ?_, .inl rfl, rfl⟩, rfl⟩
  cases n with
  | zero => rfl
  | succ n => rfl

end Sys2Proof.Tests
end

section
/-! Which parameters are accepted (R11, R14, R15), and the configuration of the reset state (R13 to R16). -/

namespace Sys2Proof

/-- A wait policy fails R14's `N ≥ 1` exactly as `BOUNDED(0)`. -/
theorem WaitPolicy.legal_eq_false_iff {w : WaitPolicy} : w.legal = false ↔ w = .bounded 0 := by
  cases w with
  | infinite => simp [WaitPolicy.legal]
  | bounded n => simp [WaitPolicy.legal]

/-- A poll limit fails R15's `M ≥ 1` exactly as the limit 0. -/
theorem PollLimit.legal_eq_false_iff {l : PollLimit} : l.legal = false ↔ l = .limit 0 := by
  cases l with
  | unbounded => simp [PollLimit.legal]
  | limit m => simp [PollLimit.legal]

theorem Params.legal_eq_false_iff {p : Params} :
    p.legal = false ↔ p.speedMove = 0 ∨ p.waitPolicy = .bounded 0 ∨ p.pollLimit = .limit 0 := by
  simp only [Params.legal, Bool.and_eq_false_iff, decide_eq_false_iff_not, not_not, BitVec.ofNat_eq_ofNat,
    WaitPolicy.legal_eq_false_iff, PollLimit.legal_eq_false_iff, or_assoc]

theorem Params.accept_eq_none_iff {p : Params} : p.accept = none ↔ p.legal = false := by
  simp [Params.accept]

/-- Acceptance adds the evidence and changes no parameter. -/
theorem Params.toParams_of_accept {p : Params} {c : Config} (h : p.accept = some c) : c.toParams = p := by
  obtain ⟨_, ⟨⟩⟩ := Option.dite_none_right_eq_some.mp h
  rfl

@[simp] theorem Config.default_toParams : Config.default.toParams = Params.default := rfl

/-- Settles O54: acceptance tests `Params.legal`, which fails exactly where one of its three parts does. -/
theorem illegalParametersAreRefused : Obligations.IllegalParametersAreRefused :=
  ⟨fun _ => Params.accept_eq_none_iff.trans Params.legal_eq_false_iff, fun _ _ => Params.toParams_of_accept⟩

namespace Machine

@[simp] theorem State.resetFor_cfg (c : Config) : (State.resetFor c).cfg = c := rfl

@[simp] theorem State.reset_cfg : State.reset.cfg = Config.default := State.resetFor_cfg Config.default

/-- Settles O58: `State.reset` keeps the default configuration, whose parameters are `Params.default`. -/
theorem resetConfigurationHasTheDefaults : Obligations.ResetConfigurationHasTheDefaults := by
  refine ⟨rfl, ?_⟩
  simp [Params.default]

end Machine

end Sys2Proof
end

section
/-! The invariant `Inv`: it holds in the reset state (R42), and each rule of a step (10_state.md R20) keeps it. One
lemma for each way a rule changes the registers that `Inv` speaks of; the step's proof names the rule's lemma. -/

namespace Sys2Proof.Machine

/-! ### The parts of the invariant, by the state they speak of -/

section parts
variable {s : State}

/-- A byte index outside an operation is 0, unless the block is halted. -/
theorem State.engineLegal_idle (ho : s.op = .idle) (hk : s.halted = false → s.k = 0#2) : s.engineLegal = true := by
  cases hh : s.halted <;> simp_all [State.engineLegal]

theorem State.engineLegal_tx (ho : s.op = .tx) (hh : s.halted = false)
    (hf : frameLegal s.cfg.rangeCheck s.frm s.flen = true) (hk : s.k.toNat < s.flen.toNat) :
    s.engineLegal = true := by
  simp [State.engineLegal, ho, hh, hf, hk]

theorem State.engineLegal_rx (ho : s.op = .rx) (hh : s.halted = false) (hk : s.k ≠ 3#2) : s.engineLegal = true := by
  simp [State.engineLegal, ho, hh, hk]

/-- Between operations of a running block the byte index is 0. -/
theorem Inv.idle (hi : Inv s) (ho : s.op = .idle) (hh : s.halted = false) : s.k = 0#2 := by
  obtain ⟨-, -, heng, -⟩ := hi
  simpa [State.engineLegal, ho, hh] using heng

theorem State.chLegal_iff : s.chLegal = true ↔ 1 ≤ s.ch.toNat ∧ s.ch.toNat ≤ numCh := by
  simp [State.chLegal]

theorem State.errLegal_of_running (hh : s.halted = false) (he : s.err = none) : s.errLegal = true := by
  simp [State.errLegal, he, hh]

/-- A running state of the invariant holds no cause. -/
theorem Inv.err_eq_none (hi : Inv s) (hh : s.halted = false) : s.err = none := by
  obtain ⟨-, -, -, -, -, -, herr, -⟩ := hi
  exact err_of_running herr hh

theorem Inv.ch_bounds (hi : Inv s) : 1 ≤ s.ch.toNat ∧ s.ch.toNat ≤ numCh := by
  obtain ⟨-, -, -, hch, -⟩ := hi
  exact State.chLegal_iff.mp hch

theorem Inv.pollLegal_pcnt (hi : Inv s) : pollLegal s.cfg.pollLimit s.pcnt = true := by
  obtain ⟨-, -, -, -, -, hp, -⟩ := hi
  exact hp

end parts

theorem waitLegal_zero (c : Config) : waitLegal c.waitPolicy 0 = true := (Config.counters_start c).1

theorem pollLegal_zero (c : Config) : pollLegal c.pollLimit 0 = true := (Config.counters_start c).2

/-! ### The reset state -/

/-- Neither state after reset is a halted one. -/
theorem SeqState.isHalted_atReset (m : Mode) : (SeqState.atReset m).isHalted = false := by cases m <;> rfl

/-- Settles O28: the counters start below their bounds, and the other parts are the reset values of the mode. -/
theorem invariantHoldsAfterReset : Obligations.InvariantHoldsAfterReset := by
  intro c
  have hq : seqAllowed c.mode c.variant (SeqState.atReset c.mode) = true := by cases c.mode <;> rfl
  have herr : (State.resetFor c).errLegal = true :=
    State.errLegal_of_running (SeqState.isHalted_atReset c.mode) rfl
  have heng : (State.resetFor c).engineLegal = true := State.engineLegal_idle rfl fun _ => rfl
  exact ⟨rfl, hq, heng, rfl, waitLegal_zero c, pollLegal_zero c, herr, rfl⟩

/-! ### Frames, indices, channels and resumed states -/

/-- A legal frame has a byte to send. -/
theorem frameLegal_pos {rc : RangeCheck} {f : Frame} {n : BitVec 3} (h : frameLegal rc f n = true) : 0 < n.toNat := by
  rcases frame_cases h with ⟨_, _, _, _, rfl, -⟩ | ⟨_, rfl, -⟩ <;> decide

/-- Where the latched bytes are a legal frame, the engine sends a frame of the latched length. -/
theorem SentFrame.length_eq {s : State} {f : Frame} {n : BitVec 3} (h : SentFrame s f n)
    (hf : frameLegal s.cfg.rangeCheck s.frm s.flen = true) : n = s.flen := by
  rcases frame_cases hf with ⟨_, _, _, _, hn, -, -, hl⟩ | ⟨_, hn, -, -, -, hl⟩
  · rcases h with ⟨_, _, _, _, -, -, rfl⟩ | ⟨_, hd, -, -⟩ | ⟨-, -, rfl⟩
    · exact hn.symm
    · rw [hl] at hd; cases hd
    · rfl
  · rcases h with ⟨_, _, _, _, hd, -, -⟩ | ⟨_, -, -, rfl⟩ | ⟨-, -, rfl⟩
    · rw [hl] at hd; cases hd
    · exact hn.symm
    · rfl

/-- A byte index that is not the last one stays inside the frame when it goes up (R106). -/
theorem index_succ_lt {k : BitVec 2} {n : BitVec 3} (h : k.toNat < n.toNat) (hne : k.setWidth 3 ≠ n - 1#3) :
    (k + 1#2).toNat < n.toNat := by
  revert h hne; revert k n; decide

/-- The channel counter goes up from below 16 (R161, R168). -/
theorem channel_succ {c : BitVec 5} (h : c.toNat < 16) :
    1 ≤ (c + 1#5).toNat ∧ (c + 1#5).toNat ≤ numCh := by
  revert h; revert c; decide

/-- A running state of the configuration's mode and variant (R22). -/
def SeqState.runsIn (c : Config) (q : SeqState) : Prop :=
  seqAllowed c.mode c.variant q = true ∧ q.isHalted = false

theorem SeqState.runsIn_warm {c : Config} (hm : c.mode = .seq) : SeqState.warm.runsIn c :=
  ⟨decide_eq_true hm, rfl⟩

theorem SeqState.runsIn_issue {c : Config} (hm : c.mode = .seq) : SeqState.issue.runsIn c :=
  ⟨decide_eq_true hm, rfl⟩

theorem SeqState.runsIn_hIdle {c : Config} (hm : c.mode = .direct) : SeqState.hIdle.runsIn c :=
  ⟨decide_eq_true hm, rfl⟩

/-- After the last warm-up move the sequencer is in the start wait of its variant (R160). -/
theorem SeqState.runsIn_idleState {c : Config} (hm : c.mode = .seq) : (idleState c.variant).runsIn c := by
  cases hv : c.variant <;> exact ⟨decide_eq_true ⟨hm, hv⟩, rfl⟩

/-- After the last move of a phase the sequencer is in the arrival state of its variant (R168). -/
theorem SeqState.runsIn_afterMoves {c : Config} (hm : c.mode = .seq) : (afterMoves c.variant).runsIn c := by
  cases hv : c.variant <;> exact ⟨decide_eq_true ⟨hm, hv⟩, rfl⟩

/-- The states of one variant are allowed together: where `seq` may hold q, it may hold another with the same
premises. -/
theorem Inv.runsIn {s : State} {q : SeqState} (hi : Inv s) (r : SeqState) (hs : s.seq = q)
    (hqr : seqAllowed s.cfg.mode s.cfg.variant q = seqAllowed s.cfg.mode s.cfg.variant r)
    (hr : r.isHalted = false) : r.runsIn s.cfg := by
  obtain ⟨-, hseq, -⟩ := hi
  exact ⟨hqr ▸ hs ▸ hseq, hr⟩

/-! ### What each rule keeps -/

section rules
variable {s : State}

/-- R203 to R205: a halt writes `seq`, `op` and `err` in agreement. -/
theorem Inv.halt (hi : Inv s) (c : HaltCause) : Inv (s.halt c) := by
  obtain ⟨hpf, -, -, hch, hw, hp, -, hres⟩ := hi
  have hseq : (s.halt c).seqLegal = true := by cases c <;> rfl
  have heng : (s.halt c).engineLegal = true := State.engineLegal_idle rfl (by simp)
  exact ⟨hpf, hseq, heng, hch, hw, hp, decide_eq_true rfl, hres⟩

/-- R101, R121: latching a legal frame and resuming in a running state of the mode and variant. -/
theorem Inv.startTx (hi : Inv s) (hh : s.halted = false) {f : Frame} {n : BitVec 3}
    (hf : frameLegal s.cfg.rangeCheck f n = true) {q : SeqState} (hq : q.runsIn s.cfg) {c : BitVec 5}
    (hc : 1 ≤ c.toNat ∧ c.toNat ≤ numCh) (d : BitVec 32) :
    Inv { s.startTx f n q with ch := c, dcnt := d } := by
  have he := hi.err_eq_none hh
  obtain ⟨hpf, -, -, -, -, hp, -, hres⟩ := hi
  exact ⟨hpf, hq.1, State.engineLegal_tx rfl hq.2 hf (frameLegal_pos hf), State.chLegal_iff.mpr hc,
    waitLegal_zero _, hp, State.errLegal_of_running hq.2 he, hres⟩

/-- R125: starting the receive and resuming in a running state of the mode and variant. -/
theorem Inv.issueFbrecv (hi : Inv s) (hh : s.halted = false) {q : SeqState} (hq : q.runsIn s.cfg) :
    Inv (s.issueFbrecv q) := by
  have he := hi.err_eq_none hh
  obtain ⟨hpf, -, -, hch, -, hp, -, hres⟩ := hi
  exact ⟨hpf, hq.1, State.engineLegal_rx rfl hq.2 (by simp), hch, waitLegal_zero _, hp,
    State.errLegal_of_running hq.2 he, hres⟩

/-- The sequencer moves between its own states, no operation in progress (R160 to R175). -/
theorem Inv.goTo (hi : Inv s) (hh : s.halted = false) (ho : s.op = .idle) {q : SeqState}
    (hq : q.runsIn s.cfg) {c : BitVec 5} (hc : 1 ≤ c.toNat ∧ c.toNat ≤ numCh) {p : Nat}
    (hp : pollLegal s.cfg.pollLimit p = true) (e : Endpoint) :
    Inv { s with ep := e, ch := c, pcnt := p, seq := q } := by
  have he := hi.err_eq_none hh
  have hk := hi.idle ho hh
  obtain ⟨hpf, -, -, -, hw, -, -, hres⟩ := hi
  exact ⟨hpf, hq.1, State.engineLegal_idle ho fun _ => hk, State.chLegal_iff.mpr hc, hw, hp,
    State.errLegal_of_running hq.2 he, hres⟩

/-- R106, R127: an operation ends; the block is idle with `k` 0. -/
theorem Inv.endOperation (hi : Inv s) : Inv { s with wcnt := 0, op := .idle, k := 0#2 } := by
  obtain ⟨hpf, hseq, -, hch, -, hp, herr, hres⟩ := hi
  exact ⟨hpf, hseq, State.engineLegal_idle rfl fun _ => rfl, hch, waitLegal_zero _, hp, herr, hres⟩

/-- R106: a byte that is not the last one goes. -/
theorem Inv.sendMore (hi : Inv s) (ho : s.op = .tx) (hne : s.k.setWidth 3 ≠ s.flen - 1#3) :
    Inv { s with wcnt := 0, k := s.k + 1#2 } := by
  obtain ⟨hh, hf, hk⟩ := Inv.tx hi ho
  obtain ⟨hpf, hseq, -, hch, -, hp, herr, hres⟩ := hi
  exact ⟨hpf, hseq, State.engineLegal_tx ho hh hf (index_succ_lt hk hne), hch, waitLegal_zero _, hp, herr, hres⟩

/-- R127: one of the first two bytes of a response is held. -/
theorem Inv.holdByte (hi : Inv s) (hh : s.halted = false) (ho : s.op = .rx) {k : BitVec 2} (hk : k ≠ 3#2)
    (b0 b1 : Byte) : Inv { s with wcnt := 0, rxb0 := b0, rxb1 := b1, k := k } := by
  obtain ⟨hpf, hseq, -, hch, -, hp, herr, hres⟩ := hi
  exact ⟨hpf, hseq, State.engineLegal_rx ho hh hk, hch, waitLegal_zero _, hp, herr, hres⟩

/-- R128: an entry of the file and both result registers are written. -/
theorem Inv.writeEntry (hi : Inv s) {i : BitVec 5} (hx : hasEntry i.toNat = true) (v : Pos) :
    Inv { s with pf := s.pf.write i.toNat v, resCh := some i, resPos := some v } := by
  obtain ⟨hpf, hseq, heng, hch, hw, hp, herr, -⟩ := hi
  have hres : (hasEntry i.toNat && (some v).isSome) = true := by rw [hx]; rfl
  exact ⟨Memory.wf_write v hpf hx, hseq, heng, hch, hw, hp, herr, hres⟩

/-- R107: a wait below the bound of the policy. -/
theorem Inv.wait (hi : Inv s) (hw : waitExpired s.cfg.waitPolicy s.wcnt = false) :
    Inv { s with wcnt := waitCount s.cfg.waitPolicy s.wcnt } := by
  obtain ⟨hpf, hseq, heng, hch, hl, hp, herr, hres⟩ := hi
  exact ⟨hpf, hseq, heng, hch, waitLegal_count hw hl, hp, herr, hres⟩

/-- `Inv` speaks neither of the bytes taken nor of the ports, so it holds where a halt starts from. -/
theorem HaltsFrom.inv {s' : State} (h : HaltsFrom s s') (hi : Inv s) : Inv s' := by
  rcases h with rfl | ⟨rfl, -, -⟩ | ⟨rfl, -, -⟩ <;> exact hi

end rules

/-- Every rule of a step keeps the invariant. -/
theorem StepResult.inv {s t : State} (h : StepResult s t) (hi : Inv s) : Inv t := by
  have one : 1 ≤ (1#5).toNat ∧ (1#5).toNat ≤ numCh := by decide
  cases h with
  | reset _ e => exact e ▸ invariantHoldsAfterReset s.cfg
  | halted _ _ e => exact e ▸ hi
  | halt s' c _ _ _ hs e => exact e ▸ (hs.inv hi).halt c
  | send f n _ _ _ _ _ _ e => exact e ▸ hi.endOperation
  | sendMore f n _ _ ho _ hk hf e =>
    obtain ⟨-, hl, -⟩ := Inv.tx hi ho
    exact e ▸ hi.sendMore ho (hf.length_eq hl ▸ hk)
  | wait _ _ _ hw e => exact e ▸ hi.wait hw
  | take0 _ hh ho _ _ e => exact e ▸ hi.holdByte hh ho (by decide) s.env.rxData s.rxb1
  | take1 _ hh ho _ _ e => exact e ▸ hi.holdByte hh ho (by decide) s.rxb0 s.env.rxData
  | store i v _ _ _ _ _ _ _ hx e => exact e ▸ (hi.writeEntry hx v).endOperation
  | warm c q ch' _ hh _ hm _ hc hn e =>
    rcases hn with ⟨hlt, -, rfl, rfl⟩ | ⟨-, -, rfl, rfl⟩
    · exact e ▸ hi.startTx hh (frameLegal_move hc _ _) (SeqState.runsIn_warm hm) (channel_succ hlt) s.dcnt
    · exact e ▸ hi.startTx hh (frameLegal_move hc _ _) (SeqState.runsIn_idleState hm) one s.dcnt
  | issue c q ch' d _ hh _ hm _ hc hn e =>
    rcases hn with ⟨hlt, -, rfl, rfl, -⟩ | ⟨-, -, rfl, rfl, -⟩
    · exact e ▸ hi.startTx hh (frameLegal_move hc _ _) (SeqState.runsIn_issue hm) (channel_succ hlt) d
    · exact e ▸ hi.startTx hh (frameLegal_move hc _ _) (SeqState.runsIn_afterMoves hm) one d
  | same _ _ _ e => exact e ▸ hi
  | press _ hh ho _ hs e =>
    exact e ▸ hi.goTo hh ho (hi.runsIn .waitRelease hs rfl rfl) hi.ch_bounds hi.pollLegal_pcnt s.ep
  | start _ hh ho hm _ e => exact e ▸ hi.goTo hh ho (SeqState.runsIn_issue hm) one (pollLegal_zero _) .a
  | pollReq _ hh _ _ hs e =>
    have hc : channelOk s.cfg.rangeCheck 1#8 = true := by cases s.cfg.rangeCheck <;> rfl
    exact e ▸ hi.startTx hh (frameLegal_request hc s.frm) (hi.runsIn .pollResp hs rfl rfl) hi.ch_bounds s.dcnt
  | pollResp _ hh _ _ hs e => exact e ▸ hi.issueFbrecv hh (hi.runsIn .test hs rfl rfl)
  | flip _ hh ho hm _ e => exact e ▸ hi.goTo hh ho (SeqState.runsIn_issue hm) one (pollLegal_zero _) s.ep.flip
  | again _ hh ho _ hs hp e =>
    exact e ▸ hi.goTo hh ho (hi.runsIn .pollReq hs rfl rfl) hi.ch_bounds (pollLegal_count hp hi.pollLegal_pcnt) s.ep
  | countDown _ _ _ _ _ e => exact e ▸ hi
  | hostMove c p sp _ hh _ hm hc e =>
    exact e ▸ hi.startTx hh (frameLegal_move hc p sp) (SeqState.runsIn_hIdle hm) hi.ch_bounds s.dcnt
  | hostFbreq c _ hh _ hm hc e =>
    exact e ▸ hi.startTx hh (frameLegal_request hc s.frm) (SeqState.runsIn_hIdle hm) hi.ch_bounds s.dcnt
  | hostFbrecv _ hh _ hm e => exact e ▸ hi.issueFbrecv hh (SeqState.runsIn_hIdle hm)
  | hostArrtest r _ _ _ _ e => exact e ▸ hi

/-- Settles O29: sampling writes no register that `Inv` speaks of, and every rule keeps it. -/
theorem everyStepKeepsTheInvariant : Obligations.EveryStepKeepsTheInvariant :=
  fun _ _ hi h => (step_result h).inv hi

end Sys2Proof.Machine
end

section
/-! The step as a whole, from the laws of `Laws/Step.lean`: it answers a next state from every state of the invariant,
writes no parameter (R35), and takes a command only in DIRECT mode, idle and running (R80). -/

namespace Sys2Proof.Machine

/-- Settles O30: only `seq = H_IDLE` in SEQ mode has no rule, and the invariant keeps H_IDLE to DIRECT mode. -/
theorem everyStepAnswersANextState : Obligations.EveryStepAnswersANextState := by
  intro s hi
  rcases step_cases s with ⟨-, e⟩ | ⟨-, -, e⟩ | ⟨-, -, -, e⟩ | ⟨-, -, -, e⟩ | ⟨-, -, -, hm, e⟩ |
    ⟨-, -, -, -, e⟩ <;> rw [e]
  · exact ⟨_, rfl⟩
  · exact ⟨_, rfl⟩
  · exact txEngine_next _
  · exact rxEngine_next _
  · refine seqStep_next _ fun hq : s.seq = .hIdle => ?_
    obtain ⟨-, hseq, -⟩ := hi
    simp [State.seqLegal, seqAllowed, hq, hm] at hseq
  · exact hostStep_next _

theorem HaltsFrom.cfg_eq {s s' : State} (h : HaltsFrom s s') : s'.cfg = s.cfg := by
  rcases h with rfl | ⟨rfl, -, -⟩ | ⟨rfl, -, -⟩ <;> rfl

theorem StepResult.cfg_eq {s t : State} (h : StepResult s t) : t.cfg = s.cfg := by
  cases h with
  | halt s' c _ _ _ hs e => rw [e, State.halt_cfg, hs.cfg_eq]
  | _ => subst_vars; rfl

/-- Settles O31: sampling and every rule of a step leave `cfg` as it was. -/
theorem configurationIsFixed : Obligations.ConfigurationIsFixed :=
  fun _ _ h => (step_result h).cfg_eq

/-- In SEQ mode, while busy and while halted the step is not the host port's (R20). -/
theorem State.no_host_step {s : State} (hp : s.cfg.mode = .seq ∨ s.op ≠ .idle ∨ s.halted = true)
    (hh : s.halted = false) (ho : s.op = .idle) (hm : s.cfg.mode = .direct) : False := by
  simp [hh, ho, hm] at hp

/-- R80: `cmd_accept` goes up only in a step of the host port. -/
theorem StepResult.cmdAccept_eq_false {s t : State} (h : StepResult s t) (hs : s.cmdAccept = false)
    (hp : s.cfg.mode = .seq ∨ s.op ≠ .idle ∨ s.halted = true) : t.cmdAccept = false := by
  cases h with
  | halt s' c _ hh _ hf e =>
    rcases hf with rfl | ⟨rfl, -, -⟩ | ⟨rfl, ho, hm⟩
    · exact e ▸ hs
    · exact e ▸ hs
    · exact (State.no_host_step hp hh ho hm).elim
  | hostMove _ _ _ _ hh ho hm => exact (State.no_host_step hp hh ho hm).elim
  | hostFbreq _ _ hh ho hm => exact (State.no_host_step hp hh ho hm).elim
  | hostFbrecv _ hh ho hm => exact (State.no_host_step hp hh ho hm).elim
  | hostArrtest _ _ hh ho hm => exact (State.no_host_step hp hh ho hm).elim
  | reset _ e => exact e ▸ rfl
  | _ => subst_vars; exact hs

end Sys2Proof.Machine
end

section
/-! What an activity of a step cannot see (R54, R166, R37): the transmit engine reads `tx_ready` only, the receive
engine `rx_ready` and `rx_data` only, the sequencer `start_n` only. Each operation that reads no port commutes with
other values on the ports. -/

namespace Sys2Proof.Machine

/-- The state with other values on its input ports. -/
def State.seeing (v : Env) (s : State) : State := { s with env := v }

/-- Presenting other inputs changes the sampled state in its input ports only. -/
theorem State.sample_mapNextEnv (f : Env → Env) (s : State) :
    (s.mapNextEnv f).sample = s.sample.seeing (f s.nextEnv) := rfl

section operations
variable (v : Env) (s : State)

@[simp] theorem State.seeing_env : (s.seeing v).env = v := rfl
@[simp] theorem State.seeing_cfg : (s.seeing v).cfg = s.cfg := rfl
@[simp] theorem State.seeing_seq : (s.seeing v).seq = s.seq := rfl
@[simp] theorem State.seeing_op : (s.seeing v).op = s.op := rfl
@[simp] theorem State.seeing_halted : (s.seeing v).halted = s.halted := rfl
@[simp] theorem State.seeing_ep : (s.seeing v).ep = s.ep := rfl
@[simp] theorem State.seeing_frm : (s.seeing v).frm = s.frm := rfl
@[simp] theorem State.seeing_flen : (s.seeing v).flen = s.flen := rfl
@[simp] theorem State.seeing_arrived (i : BitVec 5) (t : BitVec 16) : (s.seeing v).arrived i t = s.arrived i t := rfl

theorem State.settle_seeing (r : Except HaltCause State) :
    forgetEnv (.next ((s.seeing v).settle (r.map (State.seeing v)))) = forgetEnv (.next (s.settle r)) := by
  cases r <;> rfl

theorem State.waitTick_seeing : (s.seeing v).waitTick = s.waitTick.map (State.seeing v) := by
  unfold State.waitTick
  rw [apply_ite (Except.map (State.seeing v))]
  rfl

theorem State.sendByte_seeing (f : Frame) (n : BitVec 3) (hv : v.txReady = s.env.txReady) :
    (s.seeing v).sendByte f n = (s.sendByte f n).map (State.seeing v) := by
  unfold State.sendByte
  rw [apply_ite (Except.map (State.seeing v)), apply_ite (Except.map (State.seeing v)), ← State.waitTick_seeing, ← hv]
  rfl

theorem State.issueMove_seeing (c : BitVec 8) (p : BitVec 16) (sp : BitVec 8) (q : SeqState) :
    (s.seeing v).issueMove c p sp q = (s.issueMove c p sp q).map (State.seeing v) := by
  unfold State.issueMove
  rw [apply_ite (Except.map (State.seeing v))]
  rfl

theorem State.issueFbreq_seeing (c : BitVec 8) (q : SeqState) :
    (s.seeing v).issueFbreq c q = (s.issueFbreq c q).map (State.seeing v) := by
  unfold State.issueFbreq
  rw [apply_ite (Except.map (State.seeing v))]
  rfl

theorem State.decodeAndStore_seeing (e h l : Byte) :
    (s.seeing v).decodeAndStore e h l = (s.decodeAndStore e h l).map (State.seeing v) := by
  unfold State.decodeAndStore
  cases decodeResponse e h l <;> rfl

theorem State.arrtest_seeing (i : BitVec 8) (t : BitVec 16) :
    (s.seeing v).arrtest i t = (s.arrtest i t).map (State.seeing v) := by
  unfold State.arrtest
  rw [State.seeing_arrived, apply_ite (Except.map (State.seeing v))]
  cases s.arrived (i.setWidth 5) t <;> rfl

/-- Writing registers after an issue commutes as the issue does. -/
theorem State.map_issueMove_seeing (c : BitVec 8) (p : BitVec 16) (sp : BitVec 8) (q : SeqState) (g : State → State)
    (hg : ∀ t : State, g (t.seeing v) = (g t).seeing v) :
    ((s.seeing v).issueMove c p sp q).map g = ((s.issueMove c p sp q).map g).map (State.seeing v) := by
  rw [State.issueMove_seeing]
  cases s.issueMove c p sp q with
  | error _ => rfl
  | ok t => exact congrArg Except.ok (hg t)

theorem State.warmStep_seeing : (s.seeing v).warmStep = s.warmStep.map (State.seeing v) := by
  unfold State.warmStep
  rw [apply_ite (Except.map (State.seeing v))]
  exact if_congr Iff.rfl (s.map_issueMove_seeing v _ _ _ _ _ fun _ => rfl)
    (s.map_issueMove_seeing v _ _ _ _ _ fun _ => rfl)

theorem State.issueStep_seeing : (s.seeing v).issueStep = s.issueStep.map (State.seeing v) := by
  unfold State.issueStep
  rw [apply_ite (Except.map (State.seeing v))]
  exact if_congr Iff.rfl (s.map_issueMove_seeing v _ _ _ _ _ fun _ => rfl)
    (s.map_issueMove_seeing v _ _ _ _ _ fun _ => rfl)

theorem State.testStep_seeing : (s.seeing v).testStep = s.testStep.map (State.seeing v) := by
  unfold State.testStep
  rw [State.seeing_arrived, State.seeing_ep, State.seeing_cfg]
  rcases s.arrived (sentinelCh.setWidth 5) ((s.ep.target s.cfg).setWidth 16) with c | _ | _
  · rfl
  · rw [apply_ite (Except.map (State.seeing v))]
    rfl
  · rfl

theorem State.delayStep_seeing : (s.seeing v).delayStep = s.delayStep.seeing v := by
  unfold State.delayStep
  rw [apply_ite (State.seeing v)]
  rfl

end operations

/-! ### The activities of a step -/

section activities
variable {v : Env} {s : State}

/-- A response read from the link is decoded and stored without a look at the ports. -/
theorem exec_frameFbresp_seeing (e : BitVec 5) (h : BitVec 8) (l : BitVec 6) :
    forgetEnv (exec (.frameFbresp e h l) (s.seeing v)) = forgetEnv (exec (.frameFbresp e h l) s) := by
  simp only [exec, execFrameFbresp, State.decodeAndStore_seeing, State.settle_seeing]

/-- An instruction reads no port but `tx_ready`. -/
theorem exec_seeing (i : Instr) (hv : v.txReady = s.env.txReady) :
    forgetEnv (exec i (s.seeing v)) = forgetEnv (exec i s) := by
  cases i with
  | move c p sp => simp only [exec, execMove, State.issueMove_seeing, State.settle_seeing]
  | fbreq c => simp only [exec, execFbreq, State.issueFbreq_seeing, State.settle_seeing]
  | fbrecv => rfl
  | arrtest i t => simp only [exec, execArrtest, State.arrtest_seeing, State.settle_seeing]
  | frameMove c h l sp => simp only [exec, execFrameMove, State.sendByte_seeing v s _ _ hv, State.settle_seeing]
  | frameFbreq c =>
    simp only [exec, execFrameFbreq, State.seeing_frm, State.sendByte_seeing v s _ _ hv, State.settle_seeing]
  | frameFbresp e h l => exact exec_frameFbresp_seeing e h l

theorem txEngine_seeing (hv : v.txReady = s.env.txReady) :
    forgetEnv (txEngine (s.seeing v)) = forgetEnv (txEngine s) := by
  unfold txEngine
  rw [State.seeing_frm, State.seeing_flen]
  cases latchedInstr s.frm s.flen with
  | some i => exact exec_seeing i hv
  | none => simp only [State.sendByte_seeing v s _ _ hv, State.settle_seeing]

theorem rxEngine_seeing (hr : v.rxReady = s.env.rxReady) (hd : v.rxData = s.env.rxData) :
    forgetEnv (rxEngine (s.seeing v)) = forgetEnv (rxEngine s) := by
  have hb : (s.seeing v).rxByte = s.rxByte.seeing v := by simp only [State.rxByte, State.seeing, hd]
  unfold rxEngine
  rw [State.seeing_env, hr, hd, hb]
  simp only [apply_ite forgetEnv]
  refine if_congr Iff.rfl (if_congr Iff.rfl rfl (if_congr Iff.rfl rfl ?_)) ?_
  · exact exec_frameFbresp_seeing _ _ _
  · rw [State.waitTick_seeing, State.settle_seeing]

theorem seqStep_seeing (hn : v.startN = s.env.startN) :
    forgetEnv (seqStep (s.seeing v)) = forgetEnv (seqStep s) := by
  unfold seqStep
  rw [State.seeing_seq]
  cases s.seq with
  | warm => simp only [State.warmStep_seeing, State.settle_seeing]
  | waitPress =>
    simp only [State.waitPressStep, State.seeing_env, hn]
    cases s.env.startN <;> rfl
  | waitRelease =>
    simp only [State.waitReleaseStep, State.seeing_env, hn]
    cases s.env.startN <;> rfl
  | waitLow =>
    simp only [State.waitLowStep, State.seeing_env, hn]
    cases s.env.startN <;> rfl
  | issue => simp only [State.issueStep_seeing, State.settle_seeing]
  | pollReq => simp only [State.pollReqStep, State.issueFbreq_seeing, State.settle_seeing]
  | pollResp => rfl
  | test => simp only [State.testStep_seeing, State.settle_seeing]
  | delay =>
    rw [State.delayStep_seeing]
    rfl
  | hIdle => rfl
  | error => rfl
  | fault => rfl

/-- R20: `rst` and the registers choose the activity, so a step sees only what the chosen activity sees. -/
theorem cycle_seeing (hrst : v.rst = s.env.rst)
    (htx : s.op = .tx → forgetEnv (txEngine (s.seeing v)) = forgetEnv (txEngine s))
    (hrx : s.op = .rx → forgetEnv (rxEngine (s.seeing v)) = forgetEnv (rxEngine s))
    (hseq : s.op = .idle → s.cfg.mode = .seq → forgetEnv (seqStep (s.seeing v)) = forgetEnv (seqStep s))
    (hhost : s.halted = false → s.op = .idle → s.cfg.mode = .direct →
      forgetEnv (hostStep (s.seeing v)) = forgetEnv (hostStep s)) :
    forgetEnv (cycle (s.seeing v)) = forgetEnv (cycle s) := by
  unfold cycle
  rw [State.seeing_env, hrst, State.seeing_halted, State.seeing_op, State.seeing_cfg]
  cases s.env.rst with
  | true => rfl
  | false =>
    cases hh : s.halted with
    | true => rfl
    | false =>
      cases ho : s.op with
      | tx => exact htx ho
      | rx => exact hrx ho
      | idle =>
        cases hm : s.cfg.mode with
        | seq => exact hseq ho hm
        | direct => exact hhost hh ho hm

end activities

/-- Settles O38: the engines and the sequencer read no command port and a halted block reads nothing; `cmd_accept`
goes up in a host step only. -/
theorem commandPortIsIgnoredUnlessReady : Obligations.CommandPortIsIgnoredUnlessReady := by
  intro s v w hp
  refine ⟨?_, fun t h => (step_result h).cmdAccept_eq_false rfl hp⟩
  unfold step
  rw [State.sample_mapNextEnv]
  exact cycle_seeing rfl (fun _ => txEngine_seeing rfl) (fun _ => rxEngine_seeing rfl rfl)
    (fun _ _ => seqStep_seeing rfl) fun hh ho hm => (State.no_host_step hp hh ho hm).elim

end Sys2Proof.Machine
end

section
/-! The output ports (10_state.md R33 to R38): what each port shows, and the values of R42 after reset. -/

namespace Sys2Proof.Machine

section ports
variable {s : State}

theorem State.busy_iff : s.busy = true ↔ s.op ≠ .idle := decide_eq_true_iff

theorem State.faulted_iff : s.faulted = true ↔ s.seq = .fault := decide_eq_true_iff

theorem SeqState.isHalted_iff {q : SeqState} : q.isHalted = true ↔ q = .error ∨ q = .fault := by
  cases q <;> simp [SeqState.isHalted]

theorem State.faulted_of_running (hh : s.halted = false) : s.faulted = false := by
  refine decide_eq_false fun hq : s.seq = .fault => ?_
  simp [State.halted, hq, SeqState.isHalted] at hh

/-- R33, R38: `err` is 0 while running and the code of R201 once a cause halted the block. -/
theorem State.errCode_of_none (h : s.err = none) : s.errCode = 0 := by simp [State.errCode, h]

theorem State.errCode_of_some {c : HaltCause} (h : s.err = some c) : s.errCode = c.code := by
  simp [State.errCode, h]

/-- R37: in SEQ mode the command port's outputs are 0. -/
theorem State.outputs_of_seq (hm : s.cfg.mode = .seq) :
    s.outputs.cmdAccept = false ∧ s.outputs.resCh = 0 ∧ s.outputs.resChWritten = false ∧ s.outputs.resPos = 0 ∧
    s.outputs.resPosWritten = false ∧ s.outputs.resArr = false ∧ s.outputs.resArrWritten = false := by
  simp [State.outputs, hm]

/-- R34, R37: in DIRECT mode a result port shows the register and its written flag. -/
theorem State.outputs_of_direct (hm : s.cfg.mode = .direct) :
    s.outputs.cmdAccept = s.cmdAccept ∧
    (s.outputs.resCh = s.resCh.getD (Config.freeResCh s.draws) ∧ s.outputs.resChWritten = s.resCh.isSome) ∧
    (s.outputs.resPos = s.resPos.getD (Config.freeResPos s.draws) ∧ s.outputs.resPosWritten = s.resPos.isSome) ∧
    (s.outputs.resArr = s.resArr.getD (Config.freeResArr s.draws) ∧ s.outputs.resArrWritten = s.resArr.isSome) := by
  simp [State.outputs, hm]

/-- A port that shows a register: its value and flag 1 once written, flag 0 before. -/
theorem shows_register {α : Type} {r : Option α} {port free : α} {flag : Bool}
    (h : port = r.getD free ∧ flag = r.isSome) :
    (∀ a, r = some a → port = a ∧ flag = true) ∧ (r = none → flag = false) := by
  obtain ⟨rfl, rfl⟩ := h
  cases r <;> simp

/-- Settles O55: the ports of each mode, the status outputs, the codes of R201 and the link outputs in turn. -/
theorem outputPortsShowTheState : Obligations.OutputPortsShowTheState := by
  intro s
  have htx := shows_register (r := s.tx) (port := s.outputs.txData) (flag := s.outputs.txValid) ⟨rfl, rfl⟩
  refine ⟨State.outputs_of_seq, fun hm => ?_, State.busy_iff, SeqState.isHalted_iff, State.faulted_iff,
    State.errCode_of_none, State.errCode_of_some, State.errCode_of_some, State.errCode_of_some,
    State.errCode_of_some, State.errCode_of_some, State.errCode_of_some, State.errCode_of_some,
    fun b hb => (htx.1 b hb).symm, htx.2, rfl⟩
  obtain ⟨ha, hc, hp, hr⟩ := State.outputs_of_direct hm
  obtain ⟨hc1, hc0⟩ := shows_register hc
  obtain ⟨hp1, hp0⟩ := shows_register hp
  obtain ⟨hr1, hr0⟩ := shows_register hr
  exact ⟨ha, hc1, hc0, hp1, hp0, hr1, hr0⟩

end ports

theorem SeqState.atReset_eq (m : Mode) : SeqState.atReset m = if m = .seq then .warm else .hIdle := by
  cases m <;> rfl

theorem State.resetState_resetFor (c : Config) : ResetState (State.resetFor c) :=
  ⟨rfl, rfl, rfl, rfl, rfl, rfl, rfl, rfl, rfl, rfl, rfl, rfl, rfl, rfl, rfl⟩

/-- Settles O27: `State.resetFor` holds the values of R42, and the ports show a running, idle block. -/
theorem resetStateHasTheValuesOfTheSpec : Obligations.ResetStateHasTheValuesOfTheSpec := by
  intro c
  have hacc : (State.resetFor c).outputs.cmdAccept = false := by
    cases hm : c.mode with
    | seq => exact (State.outputs_of_seq hm).1
    | direct => exact (State.outputs_of_direct hm).1
  have hhalt : (State.resetFor c).halted = false := SeqState.isHalted_atReset c.mode
  have hflt : (State.resetFor c).faulted = false := State.faulted_of_running hhalt
  exact ⟨State.resetState_resetFor c, SeqState.atReset_eq c.mode, rfl, rfl, hacc, rfl, hhalt, hflt, rfl⟩

end Sys2Proof.Machine
end

section
/-! The links (20_memory.md R52 to R54, R60): what a step does on them, which bytes a legal frame sends, and which
steps sample their inputs. -/

namespace Sys2Proof.Machine

/-! ### What a step does on the two links -/

/-- The use a step makes of the links, from the sampled state s to its next state t: a byte of the frame in flight
goes (R52), a byte is taken (R53), or neither. -/
inductive LinkUse (s t : State) : Prop
  | sent (f : Frame) (n : BitVec 3) : s.op = .tx → s.env.txReady = true → s.env.rst = false → SentFrame s f n →
      t.tx = some (f.byte s.k) → t.outbound = s.outbound ++ [f.byte s.k] →
      t.rxTake = false → t.inbound = s.inbound → LinkUse s t
  | taken : s.op = .rx → s.env.rxReady = true → s.env.rst = false →
      t.rxTake = true → t.inbound = s.inbound ++ [s.env.rxData] →
      t.tx = none → t.outbound = s.outbound → LinkUse s t
  | unused : t.tx = none → t.outbound = s.outbound → t.rxTake = false → t.inbound = s.inbound → LinkUse s t

/-- The rules that use a link are the engines' rules on a ready link; a halt keeps the byte its step took. -/
theorem StepResult.linkUse {s t : State} (h : StepResult s t) (htx : s.tx = none) (hrx : s.rxTake = false) :
    LinkUse s t := by
  cases h with
  | reset _ e => exact e ▸ .unused rfl rfl rfl rfl
  | halt s' c hr _ _ hs e =>
    rcases hs with rfl | ⟨rfl, ho, hd⟩ | ⟨rfl, -, -⟩
    · exact e ▸ .unused htx rfl hrx rfl
    · exact e ▸ .taken ho hd hr rfl rfl htx rfl
    · exact e ▸ .unused htx rfl hrx rfl
  | send f n hr _ ho hd _ hf e => exact e ▸ .sent f n ho hd hr hf rfl rfl hrx rfl
  | sendMore f n hr _ ho hd _ hf e => exact e ▸ .sent f n ho hd hr hf rfl rfl hrx rfl
  | take0 hr _ ho hd _ e => exact e ▸ .taken ho hd hr rfl rfl htx rfl
  | take1 hr _ ho hd _ e => exact e ▸ .taken ho hd hr rfl rfl htx rfl
  | store i v hr _ ho hd _ _ _ _ e => exact e ▸ .taken ho hd hr rfl rfl htx rfl
  | _ => subst_vars; exact .unused htx rfl hrx rfl

/-- A step starts with no byte handed over or taken, so what its ports show at the end is its own. -/
theorem step_linkUse {s t : State} (h : step s = .next t) : LinkUse s.sample t := (step_result h).linkUse rfl rfl

/-- Settles O33: each of the three uses of the links moves the bytes that its ports show. -/
theorem oneByteAtMostMovesInAStep : Obligations.OneByteAtMostMovesInAStep := by
  intro s t h
  cases step_linkUse h with
  | sent f n ho hd hr _ htx hout hrx hin => simpa [htx, hout, hrx, hin] using And.intro ho ⟨hd, hr⟩
  | taken ho hd hr hrx hin htx hout => simpa [htx, hout, hrx, hin] using And.intro ho ⟨hd, hr⟩
  | unused htx hout hrx hin => simp [htx, hout, hrx, hin]

/-! ### The bytes of a legal frame -/

/-- What the channel check lets through, on the link (R72): `0x40 | c`, with c in 1..0x16 under CHECKED. -/
theorem wireLegal_bounds {rc : RangeCheck} {b : Byte} (h : wireLegal rc b = true) :
    0x40 ≤ b.toNat ∧ b.toNat < 0x80 ∧ (rc = .checked → 0x41 ≤ b.toNat ∧ b.toNat ≤ 0x56) := by
  cases rc with
  | checked =>
    obtain ⟨hlo, hhi⟩ : 0x41 ≤ b.toNat ∧ b.toNat ≤ 0x56 := by simpa [wireLegal, BitVec.le_def] using h
    exact ⟨by omega, by omega, fun _ => ⟨hlo, hhi⟩⟩
  | unchecked =>
    obtain ⟨hlo, hhi⟩ : 0x40 ≤ b.toNat ∧ b.toNat ≤ 0x7F := by simpa [wireLegal, BitVec.le_def] using h
    exact ⟨hlo, by omega, nofun⟩

theorem plainByte_toNat_lt (x : BitVec 6) : (plainByte x).toNat < 0x40 := by revert x; decide

/-- R71, R73: after the channel byte a move frame holds bytes of six bits. -/
theorem moveFrameOf_later_byte_lt (c h l sp : BitVec 6) {k : BitVec 2} (hk : k ≠ 0) :
    ((moveFrameOf c h l sp).byte k).toNat < 0x40 := by
  obtain rfl | rfl | rfl : k = 1 ∨ k = 2 ∨ k = 3 := by revert hk; revert k; decide
  · exact plainByte_toNat_lt h
  · exact plainByte_toNat_lt l
  · exact plainByte_toNat_lt sp

/-- R60: what byte k of an outbound frame of n bytes can be under a range check. -/
def FrameByte (rc : RangeCheck) (k : BitVec 2) (n : BitVec 3) (b : Byte) : Prop :=
  b.toNat < 0x80 ∧
  (k = 0 → 0x40 ≤ b.toNat ∧ (rc = .checked → b.toNat ≤ 0x56) ∧
    (n = 2 → b.toNat = 0x40) ∧ (n = 4 → rc = .checked → 0x41 ≤ b.toNat)) ∧
  (k ≠ 0 → n = 4 → b.toNat < 0x40) ∧
  (k ≠ 0 → n = 2 → 0x40 ≤ b.toNat ∧ (rc = .checked → 0x41 ≤ b.toNat ∧ b.toNat ≤ 0x56))

theorem moveFrameOf_frameByte {rc : RangeCheck} {c : BitVec 6} (hw : wireLegal rc (wireByte c) = true)
    (h l sp : BitVec 6) (k : BitVec 2) : FrameByte rc k 4 ((moveFrameOf c h l sp).byte k) := by
  obtain rfl | hk := eq_or_ne k 0
  · obtain ⟨hlo, hhi, hchk⟩ := wireLegal_bounds hw
    exact ⟨hhi, fun _ => ⟨hlo, fun hc => (hchk hc).2, nofun, fun _ hc => (hchk hc).1⟩, by simp, by simp⟩
  · have hlt := moveFrameOf_later_byte_lt c h l sp hk
    exact ⟨by omega, fun h0 => absurd h0 hk, fun _ _ => hlt, nofun⟩

theorem requestFrameOf_frameByte {rc : RangeCheck} {c : BitVec 6} (hw : wireLegal rc (wireByte c) = true)
    (f : Frame) {k : BitVec 2} (hk : k.toNat < 2) : FrameByte rc k 2 ((requestFrameOf f c).byte k) := by
  obtain rfl | rfl : k = 0 ∨ k = 1 := by revert hk; revert k; decide
  · have hb : (requestFrameOf f c).byte 0 = 0x40#8 := rfl
    rw [hb]
    simp [FrameByte]
  · obtain ⟨hlo, hhi, hchk⟩ := wireLegal_bounds hw
    exact ⟨hhi, nofun, nofun, fun _ _ => ⟨hlo, hchk⟩⟩

/-- A legal latched frame as it goes over the link: the move frame or the request frame of a legal channel. -/
theorem SentFrame.cases_of_legal {s : State} {f : Frame} {n : BitVec 3} (h : SentFrame s f n)
    (hf : frameLegal s.cfg.rangeCheck s.frm s.flen = true) :
    ∃ c, wireLegal s.cfg.rangeCheck (wireByte c) = true ∧
      ((s.flen = 4 ∧ ∃ h l sp, f = moveFrameOf c h l sp) ∨ (s.flen = 2 ∧ f = requestFrameOf s.frm c)) := by
  rcases frame_cases hf with ⟨c, x, y, z, hn, hw, -, hl⟩ | ⟨c, hn, -, -, hw, hl⟩
  · obtain ⟨rfl, -⟩ : f = moveFrameOf c x y z ∧ n = 4#3 := by simpa [SentFrame, hl] using h
    exact ⟨c, hw, .inl ⟨hn, x, y, z, rfl⟩⟩
  · obtain ⟨rfl, -⟩ : f = requestFrameOf s.frm c ∧ n = 2#3 := by simpa [SentFrame, hl] using h
    exact ⟨c, hw, .inr ⟨hn, rfl⟩⟩

/-- The byte that leaves a state of the invariant is a byte of the latched frame at the latched index. -/
theorem SentFrame.frameByte {s : State} {f : Frame} {n : BitVec 3} (h : SentFrame s f n)
    (hf : frameLegal s.cfg.rangeCheck s.frm s.flen = true) (hk : s.k.toNat < s.flen.toNat) :
    FrameByte s.cfg.rangeCheck s.k s.flen (f.byte s.k) := by
  obtain ⟨c, hw, ⟨hn, x, y, z, rfl⟩ | ⟨hn, rfl⟩⟩ := h.cases_of_legal hf
  · exact hn ▸ moveFrameOf_frameByte hw x y z s.k
  · rw [hn] at hk ⊢
    exact requestFrameOf_frameByte hw s.frm hk

/-- Settles O34: only the transmit engine hands a byte over, and in a state of the invariant it sends a legal frame. -/
theorem emittedBytesAreFrameBytes : Obligations.EmittedBytesAreFrameBytes := by
  intro s t b hi h hb
  cases step_linkUse h with
  | taken _ _ _ _ _ htx _ => simp [htx] at hb
  | unused htx _ _ _ => simp [htx] at hb
  | sent f n ho _ _ hf htx _ _ _ =>
    obtain rfl : f.byte s.k = b := Option.some.inj (htx.symm.trans hb)
    obtain ⟨-, hl, hk⟩ := Inv.tx hi ho
    exact hf.frameByte hl hk

/-! ### Which steps sample the links' inputs -/

section inputs
variable {v : Env} {s : State}

/-- No instruction that a command word stands for reads a port. -/
theorem exec_decodeCommand_seeing (w : CmdWord) :
    forgetEnv (exec (decodeCommand w) (s.seeing v)) = forgetEnv (exec (decodeCommand w) s) := by
  unfold decodeCommand
  split_ifs
  · simp only [exec, execMove, State.issueMove_seeing, State.settle_seeing]
  · simp only [exec, execFbreq, State.issueFbreq_seeing, State.settle_seeing]
  · rfl
  · simp only [exec, execArrtest, State.arrtest_seeing, State.settle_seeing]

theorem hostStep_seeing (hv : v.cmdValid = s.env.cmdValid) (hw : v.cmdWord = s.env.cmdWord) :
    forgetEnv (hostStep (s.seeing v)) = forgetEnv (hostStep s) := by
  unfold hostStep
  rw [State.seeing_env, hv, hw]
  simp only [apply_ite forgetEnv]
  exact if_congr Iff.rfl (exec_decodeCommand_seeing (s := s.accept) s.env.cmdWord) rfl

end inputs

/-- Settles O36: only the receive engine reads `rx_ready` and `rx_data`, only the transmit engine `tx_ready`. -/
theorem linkInputsAreSampledOnlyByTheirEngine : Obligations.LinkInputsAreSampledOnlyByTheirEngine := by
  refine ⟨fun s r d ho => ?_, fun s r ho => ?_⟩ <;> unfold step <;> rw [State.sample_mapNextEnv]
  · exact cycle_seeing rfl (fun _ => txEngine_seeing rfl) (fun h => absurd h ho) (fun _ _ => seqStep_seeing rfl)
      fun _ _ _ => hostStep_seeing rfl rfl
  · exact cycle_seeing rfl (fun h => absurd h ho) (fun _ => rxEngine_seeing rfl rfl) (fun _ _ => seqStep_seeing rfl)
      fun _ _ _ => hostStep_seeing rfl rfl

end Sys2Proof.Machine
end

section
/-! The encodings (30_encoding.md R70 to R81): the command word and its fields, the frames, the receiver of the
outbound stream, and the assembler's pseudo-operations. -/

namespace Sys2Proof

/-! ### The command word -/

/-- R74: `op` selects the operation, and the operation reads its operands from the other fields. -/
theorem decodeCommand_commandWord (op : BitVec 2) (ch : BitVec 8) (val : BitVec 16) (spd : BitVec 8) :
    decodeCommand (commandWord op ch val spd) =
      if op = 0#2 then .move ch val spd else if op = 1#2 then .fbreq ch else if op = 2#2 then .fbrecv
      else .arrtest ch val := by
  obtain ⟨hop, hch, hval, hspd⟩ := commandWord_fields op ch val spd
  simp only [decodeCommand, hop, hch, hval, hspd]

section words
variable (ch : BitVec 8) (val : BitVec 16) (spd : BitVec 8)

theorem decode_moveWord : decode (.command (commandWord 0#2 ch val spd)) = .ok (.move ch val spd) :=
  congrArg Except.ok (decodeCommand_commandWord 0#2 ch val spd)

theorem decode_fbreqWord : decode (.command (commandWord 1#2 ch val spd)) = .ok (.fbreq ch) :=
  congrArg Except.ok (decodeCommand_commandWord 1#2 ch val spd)

theorem decode_fbrecvWord : decode (.command (commandWord 2#2 ch val spd)) = .ok .fbrecv :=
  congrArg Except.ok (decodeCommand_commandWord 2#2 ch val spd)

theorem decode_arrtestWord : decode (.command (commandWord 3#2 ch val spd)) = .ok (.arrtest ch val) :=
  congrArg Except.ok (decodeCommand_commandWord 3#2 ch val spd)

end words

/-- The fields leave no bit of a command word out. -/
theorem commandWord_of_fields (w : CmdWord) : commandWord (cmdOp w) (cmdCh w) (cmdVal w) (cmdSpd w) = w := by
  have hopch : cmdOp w ++ cmdCh w = w.extractLsb' 24 10 := BitVec.extractLsb'_append_extractLsb'_eq_extractLsb' rfl
  have hval : w.extractLsb' 24 10 ++ cmdVal w = w.extractLsb' 8 26 :=
    BitVec.extractLsb'_append_extractLsb'_eq_extractLsb' rfl
  have hspd : w.extractLsb' 8 26 ++ cmdSpd w = w.extractLsb' 0 34 :=
    BitVec.extractLsb'_append_extractLsb'_eq_extractLsb' rfl
  calc commandWord (cmdOp w) (cmdCh w) (cmdVal w) (cmdSpd w)
      = w.extractLsb' 0 34 := by rw [commandWord, hopch, hval, hspd]
    _ = w := BitVec.extractLsb'_eq_self

/-- Settles O3: each op's word decodes by its fields, and a word is the word of its own fields. -/
theorem commandWordFieldsSelectTheOperation : Obligations.CommandWordFieldsSelectTheOperation :=
  ⟨fun ch val spd => ⟨decode_moveWord ch val spd, decode_fbreqWord ch val spd, decode_fbrecvWord ch val spd,
      decode_arrtestWord ch val spd⟩,
    fun w => ⟨cmdOp w, cmdCh w, cmdVal w, cmdSpd w, (commandWord_of_fields w).symm⟩⟩

/-! ### The frames -/

theorem decode_moveFrame (c h l sp : BitVec 6) :
    decode (.outbound [wireByte c, plainByte h, plainByte l, plainByte sp]) = .ok (.frameMove c h l sp) := by
  simp [decode, decodeMoveFrame]

theorem decode_requestFrame (c : BitVec 6) : decode (.outbound [0x40, wireByte c]) = .ok (.frameFbreq c) := by
  simp [decode, decodeFbreqFrame]

theorem decode_responseFrame (e : BitVec 5) (h : BitVec 8) (l : BitVec 6) :
    decode (.inbound [e.setWidth 8, h, plainByte l]) = .ok (.frameFbresp e h l) := by
  simp [decode, decodeFbrespFrame]

/-- R243: the second byte that a move frame for channel 0 shows is no wire channel byte. -/
theorem decode_request_plainByte (x : BitVec 6) :
    decode (.outbound [0x40, plainByte x]) = .error .notWireChannel := by
  simp [decode, decodeFbreqFrame]

/-- Settles O2, by the row of the instruction: the word of each op, and each of the three frames. -/
theorem decodeOfEncodeIsTheInstruction : Obligations.DecodeOfEncodeIsTheInstruction := by
  intro i
  cases i with
  | move c p sp => exact decode_moveWord c p sp
  | fbreq c => exact decode_fbreqWord c 0#16 0#8
  | fbrecv => exact decode_fbrecvWord 0#8 0#16 0#8
  | arrtest j t => exact decode_arrtestWord j t 0#8
  | frameMove c h l sp => exact decode_moveFrame c h l sp
  | frameFbreq c => exact decode_requestFrame c
  | frameFbresp e h l => exact decode_responseFrame e h l

/-- Settles O1: the decoder evaluated on each of the seven literals. -/
theorem tableWordsDecodeToTheirInstructions : Obligations.TableWordsDecodeToTheirInstructions := by
  unfold Obligations.TableWordsDecodeToTheirInstructions
  decide

/-! ### The receiver of the outbound stream -/

/-- R78: the bytes 0x40..0x7F are those that start a frame. -/
theorem topTwo_eq_one_iff {b : Byte} : topTwo b = 1#2 ↔ 0x40 ≤ b.toNat ∧ b.toNat < 0x80 := by
  rw [← BitVec.toNat_inj, topTwo_toNat, show (1#2).toNat = 1 from rfl]
  omega

/-- Only channel 0 has the wire byte that marks a request. -/
theorem wireByte_eq_marker_iff {c : BitVec 6} : wireByte c = 0x40#8 ↔ c = 0#6 := by revert c; decide

theorem receiveOutbound_request (b1 : Byte) (rest : List Byte) :
    receiveOutbound (0x40#8 :: b1 :: rest) = .ok ([0x40#8, b1], rest) := rfl

theorem receiveOutbound_move {b : Byte} (hb : topTwo b = 1#2) (hne : b ≠ 0x40#8) (b1 b2 b3 : Byte)
    (rest : List Byte) : receiveOutbound (b :: b1 :: b2 :: b3 :: rest) = .ok ([b, b1, b2, b3], rest) := by
  simp [receiveOutbound, hb, hne]

theorem receiveOutbound_notFirst {b : Byte} (hb : topTwo b ≠ 1#2) (rest : List Byte) :
    receiveOutbound (b :: rest) = .error .notFirstByte := by
  have hne : b ≠ 0x40#8 := by
    rintro rfl
    exact hb rfl
  simp [receiveOutbound, hb, hne]

/-- Settles O4, by the first byte: a wire channel byte other than 0x40, the marker 0x40, a byte outside 0x40..0x7F,
and the wire byte of channel 0, which is the marker. -/
theorem receiverTellsFramesApart : Obligations.ReceiverTellsFramesApart := by
  refine ⟨fun c h l sp rest hc => ⟨?_, decode_moveFrame c h l sp⟩,
    fun c rest => ⟨receiveOutbound_request (wireByte c) rest, decode_requestFrame c⟩,
    fun b rest hb => receiveOutbound_notFirst (fun ht => ?_) rest,
    fun h l sp rest => ⟨?_, decode_request_plainByte h⟩⟩
  · exact receiveOutbound_move (topTwo_wireByte c) (mt wireByte_eq_marker_iff.mp hc) _ _ _ rest
  · have hrange := topTwo_eq_one_iff.mp ht
    omega
  · have hmarker : wireByte 0 = 0x40#8 := wireByte_eq_marker_iff.mpr rfl
    rw [hmarker]
    exact receiveOutbound_request _ _

/-! ### The assembler -/

theorem assemble_poll {ch : Nat} (h : ch < 256) :
    assemble (.poll ch) = some [.fbreq (BitVec.ofNat 8 ch), .fbrecv] :=
  if_pos (decide_eq_true h)

theorem assemble_moveall {pos spd : Nat} (hp : pos < 65536) (hs : spd < 256) :
    assemble (.moveall pos spd) = some ((List.range numCh).map fun j => asmMove (j + 1) pos spd) :=
  if_pos (by simp [Asm.wf, fitsValue, fitsSpeed, hp, hs])

theorem assemble_eq_none {a : Asm} (h : a.wf = false) : assemble a = none := by simp [assemble, h]

/-- Settles O5: POLL and MOVEALL as assembled, and a channel that does not fit makes the line ill-formed. -/
theorem assemblerExpandsPseudoOperations : Obligations.AssemblerExpandsPseudoOperations := by
  refine ⟨fun ch h => assemble_poll h,
    fun pos spd hp hs => ⟨_, assemble_moveall hp hs, by simp, fun j hj => ?_⟩, fun ch h => ?_⟩
  · simp [hj, asmMove]
  · have hfit : fitsChannel ch = false := decide_eq_false (Nat.not_lt.mpr h)
    exact ⟨assemble_eq_none hfit, assemble_eq_none hfit⟩

end Sys2Proof
end

section
/-! The host port (30_encoding.md R80): which steps take a command, and what a step does that takes one. -/

namespace Sys2Proof.Machine

section host
variable {s t : State}

theorem hostStep_of_valid (h : s.env.cmdValid = true) :
    hostStep s = exec (decodeCommand s.env.cmdWord) s.accept := if_pos h

theorem hostStep_of_not_valid (h : s.env.cmdValid = false) : hostStep s = .next s := if_neg (by simp [h])

theorem State.running_of_hIdle (h : s.seq = .hIdle) : s.halted = false := by
  simp [State.halted, h, SeqState.isHalted]

/-- Settles O9: the step is the host step, which goes by `cmd_valid`. -/
theorem commandIsTakenAndRun : Obligations.CommandIsTakenAndRun := by
  intro s hr hm hq ho
  rw [step_host hr (State.running_of_hIdle hq) ho hm]
  exact ⟨hostStep_of_valid (s := s.sample), hostStep_of_not_valid (s := s.sample)⟩

/-- R80: each rule that runs or faults a command starts from the accepted state and keeps `cmd_accept`. -/
theorem hostStep_cmdAccept_iff (h : hostStep s = .next t) (hs : s.cmdAccept = false) :
    t.cmdAccept = true ↔ s.env.cmdValid = true := by
  cases hv : s.env.cmdValid with
  | false =>
    obtain rfl : s = t := by simpa [hostStep_of_not_valid hv] using h
    simp [hs]
  | true =>
    have htaken : t.cmdAccept = true := by
      rcases hostStep_inv h with ⟨hv', -⟩ | ⟨_, -, rfl⟩ | ⟨_, _, _, -, rfl⟩ | ⟨_, -, rfl⟩ | rfl | ⟨_, rfl⟩
      · simp [hv] at hv'
      all_goals rfl
    simp [htaken]

/-- The register `cmd_accept` after a step from any state: 1 exactly where the host port took a command. -/
theorem step_cmdAccept_iff (h : step s = .next t) :
    t.cmdAccept = true ↔ s.nextEnv.rst = false ∧ s.cfg.mode = .direct ∧ s.halted = false ∧ s.op = .idle ∧
      s.nextEnv.cmdValid = true := by
  have hother := (step_result h).cmdAccept_eq_false rfl
  rcases step_cases s with ⟨hr, e⟩ | ⟨-, hh, -⟩ | ⟨-, -, ho, -⟩ | ⟨-, -, ho, -⟩ | ⟨-, -, -, hm, -⟩ |
    ⟨hr, hh, ho, hm, e⟩
  · obtain rfl : s.sample.resetStep = t := by simpa [e] using h
    simp [hr]
  · simp [hother (.inr (.inr hh)), hh]
  · simp [hother (.inr (.inl (by simp [ho]))), ho]
  · simp [hother (.inr (.inl (by simp [ho]))), ho]
  · simp [hother (.inl hm), hm]
  · have hhost : t.cmdAccept = true ↔ s.nextEnv.cmdValid = true := hostStep_cmdAccept_iff (s := s.sample) (e ▸ h) rfl
    simp [hr, hh, ho, hm, hhost]

theorem State.outputs_cmdAccept_iff :
    s.outputs.cmdAccept = true ↔ s.cfg.mode = .direct ∧ s.cmdAccept = true := by
  cases hm : s.cfg.mode with
  | seq => simp [(State.outputs_of_seq hm).1]
  | direct => simp [(State.outputs_of_direct hm).1]

/-- In DIRECT mode a running block is in H_IDLE: the invariant keeps the sequencer's states to SEQ mode. -/
theorem Inv.running_iff_hIdle (hi : Inv s) (hm : s.cfg.mode = .direct) : s.halted = false ↔ s.seq = .hIdle := by
  refine ⟨fun hh => ?_, State.running_of_hIdle⟩
  obtain ⟨-, hseq, -⟩ := hi
  cases hq : s.seq <;> simp_all [State.seqLegal, seqAllowed, State.halted, SeqState.isHalted]

end host

/-- Settles O56: in DIRECT mode the port shows the register, and the running block of the invariant is in H_IDLE. -/
theorem commandAcceptShowsEveryTakenCommand : Obligations.CommandAcceptShowsEveryTakenCommand := by
  intro s t hi h
  rw [State.outputs_cmdAccept_iff, configurationIsFixed s t h, step_cmdAccept_iff h]
  constructor
  · rintro ⟨hm, hr, -, hh, ho, hv⟩
    exact ⟨hr, hm, (Inv.running_iff_hIdle hi hm).mp hh, ho, hv⟩
  · rintro ⟨hr, hm, hq, ho, hv⟩
    exact ⟨hm, hr, hm, (Inv.running_iff_hIdle hi hm).mpr hq, ho, hv⟩

end Sys2Proof.Machine
end

section
/-! The command encoder (40_command_encoder.md R100 to R106): the bytes of a MOVE frame, the operation that latches
them, and the transmit engine's step on the latched frame. -/

namespace Sys2Proof.Machine

/-! ### Encoding and latching a move -/

/-- Settles O6: the bytes of `moveFrame` as numbers, behind the channel check's two ranges. -/
theorem encodeMoveGivesTheFrameBytes : Obligations.EncodeMoveGivesTheFrameBytes :=
  fun rc c p sp =>
    ⟨fun hc => ⟨moveFrame c p sp, if_pos ((channelOk_iff rc c).mpr hc), wire_toNat c hc.1, higher_toNat p,
        lower_toNat p, ramp_toNat sp⟩,
      fun hc => if_neg (mt (channelOk_iff rc c).mp hc)⟩

/-- R71, R73: the bytes of a MOVE frame as slices of its operands. -/
theorem moveFrame_eq (c : BitVec 8) (p : BitVec 16) (sp : BitVec 8) :
    moveFrame c p sp = ⟨c ||| 0x40#8, plainByte (p.extractLsb' 6 6), plainByte (p.extractLsb' 0 6),
      plainByte (sp.extractLsb' 0 6)⟩ := by
  rw [moveFrame, higher_eq, lower_eq, ramp_eq, wire]

theorem exec_move (c : BitVec 8) (p : BitVec 16) (sp : BitVec 8) (s : State) :
    exec (.move c p sp) s = .next (s.settle (s.issueMove c p sp .hIdle)) := rfl

theorem exec_move_of_channelOk {s : State} {c : BitVec 8} (hc : channelOk s.cfg.rangeCheck c = true)
    (p : BitVec 16) (sp : BitVec 8) :
    exec (.move c p sp) s = .next (s.startTx (moveFrame c p sp) 4#3 .hIdle) := by
  rw [exec_move, State.issueMove, if_pos hc, State.settle_ok]

theorem exec_move_of_not_channelOk {s : State} {c : BitVec 8} (hc : ¬ channelOk s.cfg.rangeCheck c = true)
    (p : BitVec 16) (sp : BitVec 8) : exec (.move c p sp) s = .next (s.halt .fChannel) := by
  rw [exec_move, State.issueMove, if_neg hc, State.settle_error]

/-- Settles O13: the channel check passes exactly in the two ranges of R102, and the latched frame is that of R71. -/
theorem moveLatchesItsFrameOrFaults : Obligations.MoveLatchesItsFrameOrFaults := by
  refine fun s c p sp => ⟨fun hc => ?_, fun hc => ?_⟩
  · rw [exec_move_of_channelOk ((channelOk_iff _ c).mpr hc), moveFrame_eq]
    rfl
  · exact exec_move_of_not_channelOk (mt (channelOk_iff _ c).mp hc) p sp

/-! ### The transmit engine on a ready link -/

theorem exec_frameMove (c h l sp : BitVec 6) (s : State) :
    exec (.frameMove c h l sp) s = .next (s.settle (s.sendByte (moveFrameOf c h l sp) 4#3)) := rfl

theorem exec_frameFbreq (c : BitVec 6) (s : State) :
    exec (.frameFbreq c) s = .next (s.settle (s.sendByte (requestFrameOf s.frm c) 2#3)) := rfl

section ready
variable {s : State} {n : BitVec 3}

/-- R106: the last byte of a frame goes and ends the operation. -/
theorem State.sendByte_last (f : Frame) (hr : s.env.txReady = true) (hk : s.k.setWidth 3 = n - 1#3) :
    s.sendByte f n = .ok { s.txByte (f.byte s.k) with wcnt := 0, op := .idle, k := 0#2 } := by
  rw [State.sendByte, if_pos hr, if_pos hk]

/-- R106: any other byte goes and the index goes up. -/
theorem State.sendByte_more (f : Frame) (hr : s.env.txReady = true) (hk : s.k.setWidth 3 ≠ n - 1#3) :
    s.sendByte f n = .ok { s.txByte (f.byte s.k) with wcnt := 0, k := s.k + 1#2 } := by
  rw [State.sendByte, if_pos hr, if_neg hk]

end ready

/-- The index of the fourth byte is that of the last byte of a frame of four. -/
theorem index_last_of_four {k : BitVec 2} : k.setWidth 3 = 4#3 - 1#3 ↔ k = 3 := by revert k; decide

/-- R71: the bytes of a move frame in link order, the top two bits written out. -/
theorem moveFrameOf_byte (c h l sp : BitVec 6) (k : BitVec 2) :
    (moveFrameOf c h l sp).byte k =
      if k = 0 then (0b01 : BitVec 2) ++ c else if k = 1 then (0b00 : BitVec 2) ++ h
      else if k = 2 then (0b00 : BitVec 2) ++ l else (0b00 : BitVec 2) ++ sp := by
  rw [append_eq_wireByte, append_eq_plainByte, append_eq_plainByte, append_eq_plainByte]
  rfl

/-- Settles O17, by whether the byte is the fourth. -/
theorem moveFrameSendsItsBytesInOrder : Obligations.MoveFrameSendsItsBytesInOrder := by
  refine fun s c h l sp hr => ⟨(moveFrameOf c h l sp).byte s.k, moveFrameOf_byte c h l sp s.k, ?_⟩
  rw [exec_frameMove]
  by_cases hk : s.k = 3
  · rw [State.sendByte_last _ hr (index_last_of_four.mpr hk), if_pos hk, if_pos hk]
    rfl
  · rw [State.sendByte_more _ hr (mt index_last_of_four.mp hk), if_neg hk, if_neg hk]
    rfl

/-- R75: the marker, then the wire channel. -/
theorem requestFrameOf_byte_zero (old : Frame) (c : BitVec 6) : (requestFrameOf old c).byte 0 = 0x40 := rfl

theorem requestFrameOf_byte_one (old : Frame) (c : BitVec 6) :
    (requestFrameOf old c).byte 1 = (0b01 : BitVec 2) ++ c := (append_eq_wireByte c).symm

/-- Settles O18: byte 0 of two is not the last one, byte 1 is. -/
theorem requestFrameSendsMarkerThenChannel : Obligations.RequestFrameSendsMarkerThenChannel := by
  refine fun s c hr => ⟨fun hk => ?_, fun hk => ?_⟩ <;> rw [exec_frameFbreq]
  · rw [State.sendByte_more _ hr (by rw [hk]; decide), hk, requestFrameOf_byte_zero]
    rfl
  · rw [State.sendByte_last _ hr (by rw [hk]; decide), hk, requestFrameOf_byte_one]
    rfl

/-! ### The engine runs the latched frame -/

theorem txEngine_of_latchedInstr {s : State} {i : Instr} (h : latchedInstr s.frm s.flen = some i) :
    txEngine s = exec i s := by
  rw [txEngine, h]

/-- R106: a step in OP_TX whose latched bytes are a frame of the table. -/
theorem step_of_latchedInstr {s : State} {i : Instr} (hr : s.nextEnv.rst = false) (hh : s.halted = false)
    (ho : s.op = .tx) (hi : latchedInstr s.frm s.flen = some i) : step s = exec i s.sample :=
  (step_tx hr hh ho).trans (txEngine_of_latchedInstr (s := s.sample) hi)

/-- Settles O10: bytes of either length that decode to an instruction are that latched instruction. -/
theorem transmitStepRunsTheLatchedFrame : Obligations.TransmitStepRunsTheLatchedFrame := by
  refine fun s i hr hh ho => ⟨fun hn hd => step_of_latchedInstr hr hh ho ?_,
    fun hn hd => step_of_latchedInstr hr hh ho ?_⟩ <;> simp [latchedInstr, hn, hd, Except.toOption]

/-- Settles O11: the invariant keeps the latched bytes a legal frame, which `frame_cases` decodes. -/
theorem latchedFrameIsAlwaysAFrame : Obligations.LatchedFrameIsAlwaysAFrame := by
  intro s hi hr ho
  obtain ⟨hh, hf, -⟩ := Inv.tx hi ho
  rcases frame_cases hf with ⟨c, h, l, sp, hn, -, hfrm, hl⟩ | ⟨c, hn, hb0, hb1, -, hl⟩
  · exact .inl ⟨c, h, l, sp, hn, hfrm, step_of_latchedInstr hr hh ho hl⟩
  · exact .inr ⟨c, hn, hb0, hb1, step_of_latchedInstr hr hh ho hl⟩

end Sys2Proof.Machine
end

section
/-! Waiting for a link (40_command_encoder.md R107, 41_feedback.md R127): one step on a link that is not ready, and
under BOUNDED(N) the N steps that end in E_TIMEOUT. -/

namespace Sys2Proof.Machine

/-! ### One step on a link that is not ready -/

section tick
variable {s : State} {n : Nat}

/-- R107: under INFINITE a wait changes nothing. -/
theorem State.settle_waitTick_infinite (hp : s.cfg.waitPolicy = .infinite) : s.settle s.waitTick = s := by
  simp [State.waitTick, hp, waitExpired, waitCount]

theorem State.settle_waitTick_below (hp : s.cfg.waitPolicy = .bounded n) (hw : s.wcnt + 1 ≠ n) :
    s.settle s.waitTick = { s with wcnt := s.wcnt + 1 } := by
  simp [State.waitTick, hp, waitExpired, waitCount, hw]

theorem State.settle_waitTick_at (hp : s.cfg.waitPolicy = .bounded n) (hw : s.wcnt + 1 = n) :
    s.settle s.waitTick = s.halt .eTimeout := by
  simp [State.waitTick, hp, waitExpired, hw]

/-- R107 in its three cases, for any outcome that is the end of a wait. -/
theorem wait_outcomes {r : Host.Outcome State Fault Refusal} (h : r = .next (s.settle s.waitTick)) :
    (s.cfg.waitPolicy = .infinite → r = .next s) ∧
    (∀ n : Nat, s.cfg.waitPolicy = .bounded n →
      (s.wcnt + 1 ≠ n → r = .next { s with wcnt := s.wcnt + 1 }) ∧
      (s.wcnt + 1 = n → r = .next (s.halt .eTimeout))) := by
  subst h
  exact ⟨fun hp => congrArg _ (State.settle_waitTick_infinite hp), fun n hp =>
    ⟨fun hw => congrArg _ (State.settle_waitTick_below hp hw), fun hw => congrArg _ (State.settle_waitTick_at hp hw)⟩⟩

end tick

/-- Settles O19: an outbound frame's step with `tx_ready` 0 is a wait. -/
theorem waitingToSend : Obligations.WaitingToSend := by
  intro s i hi hr
  refine wait_outcomes ?_
  rcases hi with ⟨c, h, l, sp, rfl⟩ | ⟨c, rfl⟩
  · rw [exec_frameMove, State.sendByte_wait _ _ hr]
  · rw [exec_frameFbreq, State.sendByte_wait _ _ hr]

theorem rxEngine_wait {s : State} (h : s.env.rxReady = false) : rxEngine s = .next (s.settle s.waitTick) :=
  if_neg (by simp [h])

theorem txEngine_wait {s : State} (h : s.env.txReady = false) : txEngine s = .next (s.settle s.waitTick) := by
  obtain ⟨f, n, hs, -⟩ := txEngine_cases s
  rw [hs, State.sendByte_wait f n h]

/-- Settles O20: the receive engine's step with `rx_ready` 0 is a wait. -/
theorem waitingToReceive : Obligations.WaitingToReceive :=
  fun s hr hh ho hd => wait_outcomes (s := s.sample) ((step_rx hr hh ho).trans (rxEngine_wait hd))

/-! ### N steps on a link that is not ready -/

/-- The link of the operation in progress is not ready under these inputs. -/
def State.LinkNotReady (s : State) (e : Env) : Prop :=
  (s.op = .tx → e.txReady = false) ∧ (s.op = .rx → e.rxReady = false)

/-- A running operation whose link is not ready waits, in either engine. -/
theorem step_wait {s : State} (hr : s.nextEnv.rst = false) (hh : s.halted = false) (ho : s.op ≠ .idle)
    (hl : s.LinkNotReady s.nextEnv) : step s = .next (s.sample.settle s.sample.waitTick) := by
  obtain ⟨htx, hrx⟩ := hl
  cases hop : s.op with
  | idle => exact absurd hop ho
  | tx => exact (step_tx hr hh hop).trans (txEngine_wait (s := s.sample) (htx hop))
  | rx => exact (step_rx hr hh hop).trans (rxEngine_wait (s := s.sample) (hrx hop))

/-- What j waiting steps from s leave of it: the count of not-ready steps went up, j inputs are used. -/
structure WaitedFrom (s : State) (j : Nat) (t : State) : Prop where
  cfg : t.cfg = s.cfg
  seq : t.seq = s.seq
  op : t.op = s.op
  k : t.k = s.k
  err : t.err = s.err
  wcnt : t.wcnt = s.wcnt + j
  outbound : t.outbound = s.outbound
  inbound : t.inbound = s.inbound
  inputs : t.inputs = s.inputs.drop j

theorem WaitedFrom.refl (s : State) : WaitedFrom s 0 s := ⟨rfl, rfl, rfl, rfl, rfl, rfl, rfl, rfl, rfl⟩

theorem WaitedFrom.succ {s t : State} {j : Nat} (h : WaitedFrom s j t) :
    WaitedFrom s (j + 1) { t.sample with wcnt := t.wcnt + 1 } :=
  { h with
    wcnt := by rw [h.wcnt, Nat.add_assoc]
    inputs := by rw [State.sample_inputs, h.inputs, List.tail_drop] }

/-- The inputs of a step within the first n are among the n listed. -/
theorem WaitedFrom.nextEnv_mem {s t : State} {j n : Nat} (h : WaitedFrom s j t) (hj : j < n)
    (hn : n ≤ s.inputs.length) : t.nextEnv ∈ s.inputs.take n := by
  have hi : t.inputs = s.inputs[j] :: s.inputs.drop (j + 1) := by rw [h.inputs, List.drop_eq_getElem_cons]
  rw [State.nextEnv_of_inputs hi]
  exact List.mem_take_iff_getElem.mpr ⟨j, by omega, rfl⟩

section run
variable {s : State} {n : Nat}

/-- The operation of s is in progress in a running block, and through the next n steps its link is never ready. -/
structure State.Starved (s : State) (n : Nat) : Prop where
  running : s.halted = false
  busy : s.op ≠ .idle
  noReset : NoResetFor n s
  notReady : ∀ e ∈ s.inputs.take n, s.LinkNotReady e

/-- Each of the n steps is a wait. -/
theorem State.Starved.step_eq (h : s.Starved n) {t : State} {j : Nat} (ht : WaitedFrom s j t) (hj : j < n) :
    step t = .next (t.sample.settle t.sample.waitTick) := by
  obtain ⟨hlen, hrst⟩ := h.noReset
  have he := ht.nextEnv_mem hj hlen
  have hh : t.halted = false := (congrArg SeqState.isHalted ht.seq).trans h.running
  have hl : t.LinkNotReady t.nextEnv := by
    rw [State.LinkNotReady, ht.op]
    exact h.notReady _ he
  exact step_wait (hrst _ he) hh (ht.op ▸ h.busy) hl

/-- Below the bound the block goes on waiting, by induction on the steps taken. -/
theorem State.Starved.run_wait (h : s.Starved n) (hp : s.cfg.waitPolicy = .bounded n) (hw : s.wcnt = 0) {j : Nat}
    (hj : j < n) : ∃ t : State, Host.Core.run Sys2Proof.core j s = .next t ∧ WaitedFrom s j t := by
  induction j with
  | zero => exact ⟨s, rfl, .refl s⟩
  | succ j ih =>
    obtain ⟨t, hrun, ht⟩ := ih (Nat.lt_of_succ_lt hj)
    have hbelow : t.sample.wcnt + 1 ≠ n := by
      rw [State.sample_wcnt, ht.wcnt, hw]
      omega
    have hstep := h.step_eq ht (Nat.lt_of_succ_lt hj)
    rw [State.settle_waitTick_below (s := t.sample) (ht.cfg ▸ hp) hbelow] at hstep
    exact ⟨_, (run_add j 1 hrun).trans (run_succ 0 hstep), ht.succ⟩

end run

/-- R14: a bound is at least 1. -/
theorem Config.bound_pos {c : Config} {n : Nat} (h : c.waitPolicy = .bounded n) : 0 < n := by
  simpa [h, waitLegal] using waitLegal_zero c

/-- Settles O52: N - 1 waits, then the step in which the count reaches N. -/
theorem boundedWaitEndsInTimeout : Obligations.BoundedWaitEndsInTimeout := by
  intro s n hp hh ho hw hnr hl
  have hs : s.Starved n := ⟨hh, ho, hnr, hl⟩
  refine ⟨fun j hj => ?_, ?_⟩
  · obtain ⟨t, hrun, ht⟩ := hs.run_wait hp hw hj
    exact ⟨t, hrun, ht.op, by rw [ht.wcnt, hw, Nat.zero_add], ht.k, ht.err⟩
  · obtain ⟨m, rfl⟩ := Nat.exists_eq_add_one.mpr (Config.bound_pos hp)
    obtain ⟨t, hrun, ht⟩ := hs.run_wait hp hw (Nat.lt_succ_self m)
    have hat : t.sample.wcnt + 1 = m + 1 := by rw [State.sample_wcnt, ht.wcnt, hw, Nat.zero_add]
    have hstep := hs.step_eq ht (Nat.lt_succ_self m)
    rw [State.settle_waitTick_at (s := t.sample) (ht.cfg ▸ hp) hat] at hstep
    exact ⟨_, (run_add m 1 hrun).trans (run_succ 0 hstep), rfl, rfl, rfl, ht.k, ht.outbound, ht.inbound⟩

end Sys2Proof.Machine
end

section
/-! The frame of every instruction (40_command_encoder.md R101, R106; 41_feedback.md R121, R125, R128;
42_position_file.md R145): which registers each row leaves as they were. -/

namespace Sys2Proof.Machine

/-- R106, R107: a transmit step hands a byte over, counts a wait, or times out. -/
theorem State.settle_sendByte_cases (f : Frame) (n : BitVec 3) (s : State) :
    (∃ b o k, s.settle (s.sendByte f n) = { s.txByte b with wcnt := 0, op := o, k := k }) ∨
    (∃ w, s.settle (s.sendByte f n) = { s with wcnt := w }) ∨
    s.settle (s.sendByte f n) = s.halt .eTimeout := by
  rcases s.sendByte_cases f n with ⟨-, -, e⟩ | ⟨-, -, e⟩ | ⟨-, e⟩
  · exact .inl ⟨_, _, _, congrArg s.settle e⟩
  · exact .inl ⟨_, _, _, congrArg s.settle e⟩
  · rcases s.waitTick_cases with ⟨-, e'⟩ | ⟨-, e'⟩
    · exact .inr (.inr (congrArg s.settle (e.trans e')))
    · exact .inr (.inl ⟨_, congrArg s.settle (e.trans e')⟩)

/-- R128: the entry written is that of the echoed channel. -/
theorem responseIndex_of_decodeResponse {e h l : Byte} {i : BitVec 5} {v : Pos}
    (hd : decodeResponse e h l = .ok (i, v)) : i = responseIndex e := by
  rcases decodeResponse_cases e h l with ⟨-, hd'⟩ | ⟨-, -, hd'⟩ | ⟨-, -, hd'⟩ <;> rw [hd'] at hd <;> cases hd
  rfl

theorem responseIndex_setWidth (e : BitVec 5) : responseIndex (e.setWidth 8) = e := by revert e; decide

/-- Settles O23, row by row: each row's next states are those of its shared operation. -/
theorem instructionFrames : Obligations.InstructionFrames := by
  intro i s t h
  cases i with
  | move c p sp =>
    obtain rfl : s.settle (s.issueMove c p sp .hIdle) = t := Host.Outcome.next.inj h
    rcases s.issueMove_cases c p sp .hIdle with ⟨-, e⟩ | ⟨-, e⟩ <;> simp [e]
  | fbreq c =>
    obtain rfl : s.settle (s.issueFbreq c .hIdle) = t := Host.Outcome.next.inj h
    rcases s.issueFbreq_cases c .hIdle with ⟨-, e⟩ | ⟨-, e⟩ <;> simp [e]
  | fbrecv =>
    obtain rfl : s.issueFbrecv .hIdle = t := Host.Outcome.next.inj h
    simp
  | arrtest j u =>
    obtain rfl : s.settle (s.arrtest j u) = t := Host.Outcome.next.inj h
    rcases s.arrtest_cases j u with ⟨-, e⟩ | ⟨-, -, e⟩ | ⟨-, v, -, e⟩ <;> simp [e]
  | frameMove c x y z =>
    obtain rfl : s.settle (s.sendByte (moveFrameOf c x y z) 4#3) = t := Host.Outcome.next.inj h
    rcases s.settle_sendByte_cases (moveFrameOf c x y z) 4#3 with ⟨b, o, k, e⟩ | ⟨w, e⟩ | e <;> simp [e]
  | frameFbreq c =>
    obtain rfl : s.settle (s.sendByte (requestFrameOf s.frm c) 2#3) = t := Host.Outcome.next.inj h
    rcases s.settle_sendByte_cases (requestFrameOf s.frm c) 2#3 with ⟨b, o, k, e⟩ | ⟨w, e⟩ | e <;> simp [e]
  | frameFbresp e x y =>
    obtain rfl : s.settle (s.decodeAndStore (e.setWidth 8) x (y.setWidth 8)) = t := Host.Outcome.next.inj h
    rcases s.decodeAndStore_cases (e.setWidth 8) x (y.setWidth 8) with ⟨c, -, -, e'⟩ | ⟨i, v, hd, -, e'⟩
    · simp [e']
    · obtain rfl : i = e := (responseIndex_of_decodeResponse hd).trans (responseIndex_setWidth e)
      have hother (a : Nat) (ha : a ≠ i.toNat) : (s.pf.write i.toNat v).read a = s.pf.read a :=
        Memory.read_write_other s.pf v ha
      simpa [e'] using hother

end Sys2Proof.Machine
end

section
/-! The feedback decoder, requester and receiver (41_feedback.md R120 to R131): the pair of a response as numbers, the
two operations that latch a request and start a receive, and the receive engine's three bytes. -/

namespace Sys2Proof.Machine

/-! ### Decoding a response -/

section response
variable {e h l : Byte}

/-- R128: an entry is named exactly by an echo whose low five bits are in 1..16. -/
theorem hasEntry_responseIndex_iff :
    hasEntry (responseIndex e).toNat = true ↔ 1 ≤ e.toNat % 32 ∧ e.toNat % 32 ≤ 16 := by
  rw [responseIndex_toNat, hasEntry_iff]

/-- R128: an echo whose low five bits name a channel, and a position within 12 bits, decode to that pair. -/
theorem decodeResponse_of_accepted (hi : 1 ≤ e.toNat % 32 ∧ e.toNat % 32 ≤ 16)
    (hp : 64 * h.toNat + l.toNat % 64 ≤ 4095) :
    ∃ p : Pos, decodeResponse e h l = .ok (responseIndex e, p) ∧ p.toNat = 64 * h.toNat + l.toNat % 64 := by
  have hentry := hasEntry_responseIndex_iff.mpr hi
  have hpos : ¬ 4095#14 < responsePosition h l := by
    rw [BitVec.lt_def, responsePosition_toNat]
    exact Nat.not_lt.mpr hp
  refine ⟨(responsePosition h l).setWidth 12, ?_, ?_⟩
  · rw [decodeResponse, if_neg (by simp [hentry]), if_neg hpos]
  · rw [BitVec.toNat_setWidth, responsePosition_toNat, Nat.mod_eq_of_lt (by omega)]

/-- R128, R206: a channel without an entry is reported first, whatever the position. -/
theorem decodeResponse_of_bad_index (hi : ¬ (1 ≤ e.toNat % 32 ∧ e.toNat % 32 ≤ 16)) :
    decodeResponse e h l = .error .fFbIndex :=
  if_pos (Bool.eq_false_of_not_eq_true (mt hasEntry_responseIndex_iff.mp hi))

theorem decodeResponse_of_bad_position (hi : 1 ≤ e.toNat % 32 ∧ e.toNat % 32 ≤ 16)
    (hp : 4095 < 64 * h.toNat + l.toNat % 64) : decodeResponse e h l = .error .fFbPosition := by
  have hentry := hasEntry_responseIndex_iff.mpr hi
  have hpos : 4095#14 < responsePosition h l := by rwa [BitVec.lt_def, responsePosition_toNat]
  rw [decodeResponse, if_neg (by simp [hentry]), if_pos hpos]

end response

/-- Settles O7: the pair is let through exactly where neither of the two checks of R128 raises its fault. -/
theorem decodeFeedbackGivesChannelAndPosition : Obligations.DecodeFeedbackGivesChannelAndPosition := by
  refine fun e h l => ⟨fun ⟨hlo, hhi, hp⟩ => ?_, fun hbad => ?_⟩
  · obtain ⟨p, hd, hpn⟩ := decodeResponse_of_accepted ⟨hlo, hhi⟩ hp
    exact ⟨responseIndex e, p, congrArg Except.toOption hd, responseIndex_toNat e, hpn⟩
  · by_cases hi : 1 ≤ e.toNat % 32 ∧ e.toNat % 32 ≤ 16
    · exact congrArg Except.toOption (decodeResponse_of_bad_position hi (by omega))
    · exact congrArg Except.toOption (decodeResponse_of_bad_index hi)

/-- R131: only the low five bits of the echo name the channel. -/
theorem responseIndex_and_31 (x : Byte) : responseIndex (x &&& 0x1F) = responseIndex x := by revert x; decide

/-- Settles O8: the bytes of an encoded move as numbers are those that R129 decodes to the channel and position. -/
theorem responseOfEncodedMoveDecodesBack : Obligations.ResponseOfEncodedMoveDecodesBack := by
  refine ⟨fun rc c p sp hlo hhi => ?_, fun x => ⟨(responseIndex_and_31 x).symm, ?_⟩⟩
  · have hp16 : (p.setWidth 16).toNat = p.toNat := BitVec.toNat_setWidth_of_le (by decide)
    have hp := p.isLt
    obtain ⟨f, hf, hb0, hb1, hb2, -⟩ :=
      (encodeMoveGivesTheFrameBytes rc c (p.setWidth 16) sp).1 ⟨by omega, fun _ => ⟨hlo, by omega⟩⟩
    rw [if_pos (by omega)] at hb0
    rw [hp16] at hb1 hb2
    obtain ⟨c', p', hd, hc', hp'⟩ := (decodeFeedbackGivesChannelAndPosition f.b0 f.b1 f.b2).1 (by omega)
    have hc : c' = c.setWidth 5 := by
      apply BitVec.eq_of_toNat_eq
      rw [BitVec.toNat_setWidth]
      omega
    have hpp : p' = p := BitVec.eq_of_toNat_eq (by omega)
    exact ⟨f, hf, by rw [hd, hc, hpp]⟩
  · rw [responseIndex_toNat, BitVec.toNat_and]
    exact (toNat_and_31 x.toNat).symm

/-! ### Issuing a request and a receive -/

theorem exec_fbreq (c : BitVec 8) (s : State) :
    exec (.fbreq c) s = .next (s.settle (s.issueFbreq c .hIdle)) := rfl

theorem exec_fbreq_of_channelOk {s : State} {c : BitVec 8} (hc : channelOk s.cfg.rangeCheck c = true) :
    exec (.fbreq c) s = .next (s.startTx (requestFrame s.frm c) 2#3 .hIdle) := by
  rw [exec_fbreq, State.issueFbreq, if_pos hc, State.settle_ok]

theorem exec_fbreq_of_not_channelOk {s : State} {c : BitVec 8} (hc : ¬ channelOk s.cfg.rangeCheck c = true) :
    exec (.fbreq c) s = .next (s.halt .fChannel) := by
  rw [exec_fbreq, State.issueFbreq, if_neg hc, State.settle_error]

/-- Settles O14: the channel check passes exactly in the two ranges of R102. -/
theorem fbreqLatchesItsFrameOrFaults : Obligations.FbreqLatchesItsFrameOrFaults :=
  fun s c => ⟨fun hc => exec_fbreq_of_channelOk ((channelOk_iff s.cfg.rangeCheck c).mpr hc),
    fun hc => exec_fbreq_of_not_channelOk (mt (channelOk_iff s.cfg.rangeCheck c).mp hc)⟩

theorem exec_fbrecv (s : State) : exec .fbrecv s = .next (s.issueFbrecv .hIdle) := rfl

/-- Settles O15: what R125 issues, with the host's continuation. -/
theorem fbrecvStartsTheReceive : Obligations.FbrecvStartsTheReceive := exec_fbrecv

/-! ### The receive engine on a ready link -/

section ready
variable {s : State}

/-- R127: the byte at k = 0 is held as the echo. -/
theorem rxEngine_first (hr : s.env.rxReady = true) (hk : s.k = 0#2) :
    rxEngine s = .next { s.rxByte with wcnt := 0, rxb0 := s.env.rxData, k := 1#2 } := by
  rw [rxEngine, if_pos hr, if_pos hk]

/-- R127: the byte at k = 1 is held as the higher byte. -/
theorem rxEngine_second (hr : s.env.rxReady = true) (hk : s.k = 1#2) :
    rxEngine s = .next { s.rxByte with wcnt := 0, rxb1 := s.env.rxData, k := 2#2 } := by
  rw [rxEngine, if_pos hr, if_neg (by simp [hk]), if_pos hk]

/-- R127: the byte at k = 2 completes the response, which runs. -/
theorem rxEngine_third (hr : s.env.rxReady = true) (hk : s.k = 2#2) :
    rxEngine s = exec (decodeFbrespFrame s.rxb0 s.rxb1 s.env.rxData) s.rxByte := by
  rw [rxEngine, if_pos hr, if_neg (by simp [hk]), if_neg (by simp [hk])]

end ready

/-- Settles O21: a receive step with a byte there, by its index. -/
theorem receiveHoldsTheFirstTwoBytes : Obligations.ReceiveHoldsTheFirstTwoBytes :=
  fun s hr hh ho hd => ⟨fun hk => (step_rx hr hh ho).trans (rxEngine_first (s := s.sample) hd hk),
    fun hk => (step_rx hr hh ho).trans (rxEngine_second (s := s.sample) hd hk)⟩

/-- Settles O12: any three bytes decode to the response that the engine runs. -/
theorem thirdByteRunsTheResponse : Obligations.ThirdByteRunsTheResponse := by
  intro s i hr hh ho hk hd hi
  obtain rfl : decodeFbrespFrame s.rxb0 s.rxb1 s.nextEnv.rxData = i := Except.ok.inj hi
  exact (step_rx hr hh ho).trans (rxEngine_third (s := s.sample) hd hk)

/-! ### Running a response -/

theorem exec_frameFbresp (e : BitVec 5) (h : BitVec 8) (l : BitVec 6) (s : State) :
    exec (.frameFbresp e h l) s = .next (s.settle (s.decodeAndStore (e.setWidth 8) h (l.setWidth 8))) := rfl

section run
variable {s : State} {e : BitVec 5} {h : BitVec 8} {l : BitVec 6}

/-- R128, R127: the pair is written to its entry and the result registers, and the receive ends. -/
theorem exec_frameFbresp_of_ok {i : BitVec 5} {p : Pos}
    (hd : decodeResponse (e.setWidth 8) h (l.setWidth 8) = .ok (i, p)) :
    exec (.frameFbresp e h l) s = .next { s with
      pf := s.pf.write i.toNat p, resCh := some i, resPos := some p, wcnt := 0, op := .idle, k := 0#2 } := by
  rw [exec_frameFbresp, State.decodeAndStore, hd]
  rfl

theorem exec_frameFbresp_of_error {c : HaltCause}
    (hd : decodeResponse (e.setWidth 8) h (l.setWidth 8) = .error c) :
    exec (.frameFbresp e h l) s = .next (s.halt c) := by
  rw [exec_frameFbresp, State.decodeAndStore, hd]
  rfl

end run

/-- The echo byte of a response operand names the operand's channel. -/
theorem echo_mod_32 (e : BitVec 5) : (e.setWidth 8).toNat % 32 = e.toNat := by
  rw [← responseIndex_toNat, responseIndex_setWidth]

/-- The lower byte of a response operand holds the operand's low position bits. -/
theorem lower_mod_64 (l : BitVec 6) : (l.setWidth 8).toNat % 64 = l.toNat := by
  rw [BitVec.toNat_setWidth_of_le (by decide)]
  exact Nat.mod_eq_of_lt l.isLt

/-- Settles O22, by the three outcomes of decoding: a higher byte below 64 is a position of at most 4095. -/
theorem responseIsDecodedAndStored : Obligations.ResponseIsDecodedAndStored := by
  intro s e h l
  have he := echo_mod_32 e
  have hl := lower_mod_64 l
  have hl6 := l.isLt
  refine ⟨fun hlo hhi hh => ?_, fun hbad => ?_, fun hlo hhi hh => ?_⟩
  · obtain ⟨p, hd, hp⟩ := decodeResponse_of_accepted (e := e.setWidth 8) (h := h) (l := l.setWidth 8)
      (by omega) (by omega)
    rw [responseIndex_setWidth] at hd
    refine ⟨_, p, exec_frameFbresp_of_ok hd, by rw [hp, hl], rfl, ?_, fun a ha => ?_⟩
    · exact Memory.read_write_same s.pf e.toNat p
    · exact Memory.read_write_other s.pf p ha
  · exact exec_frameFbresp_of_error (decodeResponse_of_bad_index (by omega))
  · exact exec_frameFbresp_of_error (decodeResponse_of_bad_position (by omega) (by omega))

end Sys2Proof.Machine
end

section
/-! The position file (42_position_file.md): the arrival test that reads it (R143 to R145), and its one writer, the
feedback decoder (R141). -/

namespace Sys2Proof.Machine

/-! ### ARRTEST -/

/-- R144: a 12-bit position matches a 16-bit target exactly where they are the same number. -/
theorem positionMatches_eq_decide_toNat (v : Pos) (t : BitVec 16) :
    positionMatches v t = decide (v.toNat = t.toNat) := by
  rw [positionMatches, decide_eq_decide, ← BitVec.toNat_inj, BitVec.toNat_setWidth_of_le (by decide)]

/-- An index that names an entry loses nothing as a 5-bit index. -/
theorem toNat_setWidth_of_hasEntry {i : BitVec 8} (hi : hasEntry i.toNat = true) :
    (i.setWidth 5).toNat = i.toNat := by
  obtain ⟨-, hhi⟩ := (hasEntry_iff i.toNat).mp hi
  rw [BitVec.toNat_setWidth, Nat.mod_eq_of_lt (by omega)]

theorem exec_arrtest (i : BitVec 8) (t : BitVec 16) (s : State) :
    exec (.arrtest i t) s = .next (s.settle (s.arrtest i t)) := rfl

section arrtest
variable {s : State} {i : BitVec 8}

theorem exec_arrtest_of_written (hi : hasEntry i.toNat = true) {v : Pos} (hv : s.pf.read i.toNat = some v)
    (t : BitVec 16) : exec (.arrtest i t) s = .next { s with resArr := some (positionMatches v t) } := by
  rw [← toNat_setWidth_of_hasEntry hi] at hv
  rw [exec_arrtest, State.arrtest, if_pos hi, State.arrived, State.readPf, hv]
  rfl

theorem exec_arrtest_of_unwritten (hi : hasEntry i.toNat = true) (hn : s.pf.read i.toNat = none) (t : BitVec 16) :
    exec (.arrtest i t) s = .next (s.halt .fUnwritten) := by
  rw [← toNat_setWidth_of_hasEntry hi] at hn
  rw [exec_arrtest, State.arrtest, if_pos hi, State.arrived, State.readPf, hn]
  rfl

/-- R145, R206: an index without an entry is reported before the file is read. -/
theorem exec_arrtest_of_not_hasEntry (hi : ¬ hasEntry i.toNat = true) (t : BitVec 16) :
    exec (.arrtest i t) s = .next (s.halt .fArrIndex) := by
  rw [exec_arrtest, State.arrtest, if_neg hi, State.settle_error]

end arrtest

/-- Settles O16: the index check passes exactly in 1..16, and then the entry is read at its full index. -/
theorem arrtestComparesExactlyOrFaults : Obligations.ArrtestComparesExactlyOrFaults := by
  refine fun s i t => ⟨fun v hlo hhi hv => ?_, fun hlo hhi hn => ?_, fun hbad => ?_⟩
  · rw [← positionMatches_eq_decide_toNat]
    exact exec_arrtest_of_written ((hasEntry_iff _).mpr ⟨hlo, hhi⟩) hv t
  · exact exec_arrtest_of_unwritten ((hasEntry_iff _).mpr ⟨hlo, hhi⟩) hn t
  · have hi : ¬ (1 ≤ i.toNat ∧ i.toNat ≤ 16) := by omega
    exact exec_arrtest_of_not_hasEntry (mt (hasEntry_iff _).mp hi) t

/-! ### The one writer of the file -/

/-- A halt starts from the file as the step found it: neither taking a byte nor accepting a command writes it. -/
theorem HaltsFrom.pf_eq {s s' : State} (h : HaltsFrom s s') : s'.pf = s.pf := by
  rcases h with rfl | ⟨rfl, -, -⟩ | ⟨rfl, -, -⟩ <;> rfl

/-- R141: of the rules without reset only the store of a decoded response (R128) changes the file. -/
theorem StepResult.write_of_pf_ne {s t : State} (h : StepResult s t) (hr : s.env.rst = false)
    (hne : t.pf ≠ s.pf) :
    s.op = .rx ∧ s.k ≠ 0 ∧ s.k ≠ 1 ∧ s.env.rxReady = true ∧
      ∃ (i : BitVec 5) (v : Pos), decodeResponse s.rxb0 s.rxb1 s.env.rxData = .ok (i, v) ∧
        t.pf = s.pf.write i.toNat v := by
  cases h with
  | store i v _ _ ho hd hk0 hk1 hdec _ e => exact ⟨ho, hk0, hk1, hd, i, v, hdec, e ▸ rfl⟩
  | reset hrst _ => exact absurd (hr.symm.trans hrst) Bool.false_ne_true
  | halt s' c _ _ _ hs e => exact absurd (by rw [e, State.halt_pf, hs.pf_eq]) hne
  | _ => subst_vars; exact absurd rfl hne

/-- Settles O32: the step that changed the file stored a decoded pair, and a write is read at its own entry only. -/
theorem onlyTheDecoderWritesThePositionFile : Obligations.OnlyTheDecoderWritesThePositionFile := by
  intro s t h hr hne
  obtain ⟨ho, hk0, hk1, hd, c, p, hdec, hpf⟩ := (step_result h).write_of_pf_ne hr hne
  refine ⟨ho, hk0, hk1, hd, c, p, congrArg Except.toOption hdec, ?_, fun a ha => ?_⟩ <;> rw [hpf]
  · exact Memory.read_write_same s.pf c.toNat p
  · exact Memory.read_write_other s.pf p ha

end Sys2Proof.Machine
end

section
/-! The motion sequencer's steps (43_motion_sequencer.md R160 to R175): the next state of each `seq` state, whether the
switch is sampled there (R166), and where the steps lead (R162, R177). -/

namespace Sys2Proof.Machine

/-! ### Choices by endpoint and by variant, as the rules write them -/

theorem Endpoint.target_eq (c : Config) (e : Endpoint) : e.target c = if e = .a then c.posA else c.posB := by
  cases e <;> rfl

theorem Endpoint.flip_eq (e : Endpoint) : e.flip = if e = .a then .b else .a := by cases e <;> rfl

theorem idleState_eq (v : Variant) : idleState v = if v = .v1Feedback then .waitPress else .waitLow := by
  cases v <;> rfl

theorem afterMoves_eq (v : Variant) : afterMoves v = if v = .v1Feedback then .pollReq else .delay := by
  cases v <;> rfl

theorem loadDelay_eq (c : Config) (d : BitVec 32) :
    loadDelay c d = if c.variant = .v2Delay then c.delayBudget else d := by
  unfold loadDelay
  cases c.variant <;> rfl

/-! ### The sequencer's turn -/

/-- The next step is the sequencer's (R20), from its state q. -/
structure State.TurnOf (s : State) (q : SeqState) : Prop where
  noReset : s.nextEnv.rst = false
  mode : s.cfg.mode = .seq
  seq : s.seq = q
  idle : s.op = .idle

section turn
variable {s : State} {q : SeqState}

theorem State.TurnOf.step_eq (h : s.TurnOf q) (hq : q.isHalted = false) : step s = seqStep s.sample :=
  step_seq h.noReset ((congrArg SeqState.isHalted h.seq).trans hq) h.idle h.mode

theorem State.TurnOf.step_warm (h : s.TurnOf .warm) : step s = .next (s.sample.settle s.sample.warmStep) := by
  rw [h.step_eq rfl, seqStep, State.sample_seq, h.seq]

theorem State.TurnOf.step_waitPress (h : s.TurnOf .waitPress) : step s = .next s.sample.waitPressStep := by
  rw [h.step_eq rfl, seqStep, State.sample_seq, h.seq]

theorem State.TurnOf.step_waitRelease (h : s.TurnOf .waitRelease) : step s = .next s.sample.waitReleaseStep := by
  rw [h.step_eq rfl, seqStep, State.sample_seq, h.seq]

theorem State.TurnOf.step_waitLow (h : s.TurnOf .waitLow) : step s = .next s.sample.waitLowStep := by
  rw [h.step_eq rfl, seqStep, State.sample_seq, h.seq]

theorem State.TurnOf.step_issue (h : s.TurnOf .issue) : step s = .next (s.sample.settle s.sample.issueStep) := by
  rw [h.step_eq rfl, seqStep, State.sample_seq, h.seq]

theorem State.TurnOf.step_pollReq (h : s.TurnOf .pollReq) :
    step s = .next (s.sample.startTx (requestFrame s.frm 1#8) 2#3 .pollResp) := by
  rw [h.step_eq rfl, seqStep, State.sample_seq, h.seq, State.pollReqStep_eq]
  rfl

theorem State.TurnOf.step_pollResp (h : s.TurnOf .pollResp) : step s = .next (s.sample.issueFbrecv .test) := by
  rw [h.step_eq rfl, seqStep, State.sample_seq, h.seq]
  rfl

theorem State.TurnOf.step_test (h : s.TurnOf .test) : step s = .next (s.sample.settle s.sample.testStep) := by
  rw [h.step_eq rfl, seqStep, State.sample_seq, h.seq]

theorem State.TurnOf.step_delay (h : s.TurnOf .delay) : step s = .next s.sample.delayStep := by
  rw [h.step_eq rfl, seqStep, State.sample_seq, h.seq]

end turn

/-! ### S_WARM and S_ISSUE: a batch of moves -/

/-- What S_WARM (R161) and S_ISSUE (R168) differ in: the state that issues the moves, the one resumed in after the move
of channel 16, where the moves go and how fast, and what the last one makes of the delay counter. -/
structure Batch where
  seq : SeqState
  next : SeqState
  pos : Pos
  speed : BitVec 6
  load : BitVec 32 → BitVec 32

/-- The warm-up's moves (R161). -/
def Batch.warmup (c : Config) : Batch := ⟨.warm, idleState c.variant, c.posWarmup, 0, id⟩

/-- The moves of a phase (R168). -/
def Batch.phase (c : Config) (e : Endpoint) : Batch :=
  ⟨.issue, afterMoves c.variant, e.target c, c.speedMove, loadDelay c⟩

/-- The move of channel `ch` is latched and `ch` advances; the move of channel 16 ends the batch. -/
def State.issueOf (b : Batch) (s : State) : State :=
  { s.startTx (moveFrameOf (BitVec.ofNat 6 s.ch.toNat) (b.pos.extractLsb' 6 6) (b.pos.extractLsb' 0 6) b.speed) 4#3
      (if s.ch = 16 then b.next else b.seq) with
    ch := if s.ch = 16 then 1 else s.ch + 1, dcnt := if s.ch = 16 then b.load s.dcnt else s.dcnt }

section batch
variable {s : State}

/-- R71: the frame of a move that the sequencer issues, on its operands' own bits. -/
theorem moveFrame_channel {c : BitVec 5} (h1 : 1 ≤ c.toNat) (h2 : c.toNat ≤ 16) (p : Pos) (sp : BitVec 6) :
    moveFrame (c.setWidth 8) (p.setWidth 16) (sp.setWidth 8) =
      moveFrameOf (BitVec.ofNat 6 c.toNat) (p.extractLsb' 6 6) (p.extractLsb' 0 6) sp := by
  obtain ⟨-, hw, hb⟩ := channel_of_counter c h1 h2
  rw [moveFrame, hw, hb, higher_setWidth, lower_setWidth, ramp_setWidth, moveFrameOf]

/-- R161: the channels of the sequencer pass the channel check. -/
theorem State.issueMove_channel {c : BitVec 5} (h1 : 1 ≤ c.toNat) (h2 : c.toNat ≤ 16) (p : Pos) (sp : BitVec 6)
    (q : SeqState) (s : State) :
    s.issueMove (c.setWidth 8) (p.setWidth 16) (sp.setWidth 8) q = .ok (s.startTx
      (moveFrameOf (BitVec.ofNat 6 c.toNat) (p.extractLsb' 6 6) (p.extractLsb' 0 6) sp) 4#3 q) := by
  obtain ⟨hok, -⟩ := channel_of_counter c h1 h2
  rw [State.issueMove, if_pos (hok _), moveFrame_channel h1 h2]

/-- Below 16 the channel counter names the channel, at 16 the rules write the channel out. -/
theorem channel_lt_or_eq {c : BitVec 5} (h : c.toNat ≤ 16) :
    (c.toNat < numCh ∧ c ≠ 16) ∨ (¬ c.toNat < numCh ∧ c = 16) := by
  revert h; revert c; decide

theorem State.warmStep_eq (h1 : 1 ≤ s.ch.toNat) (h2 : s.ch.toNat ≤ 16) :
    s.warmStep = .ok (s.issueOf (Batch.warmup s.cfg)) := by
  have hmove := s.issueMove_channel h1 h2 s.cfg.posWarmup 0
  rw [State.warmStep, State.issueOf]
  rcases channel_lt_or_eq h2 with ⟨hlt, hne⟩ | ⟨hge, heq⟩
  · rw [if_pos hlt, if_neg hne, if_neg hne, if_neg hne]
    exact congrArg _ (hmove .warm)
  · rw [if_neg hge, if_pos heq, if_pos heq, if_pos heq]
    rw [heq] at hmove ⊢
    exact congrArg _ (hmove (idleState s.cfg.variant))

theorem State.issueStep_eq (h1 : 1 ≤ s.ch.toNat) (h2 : s.ch.toNat ≤ 16) :
    s.issueStep = .ok (s.issueOf (Batch.phase s.cfg s.ep)) := by
  have hmove := s.issueMove_channel h1 h2 (s.ep.target s.cfg) s.cfg.speedMove
  rw [State.issueStep, State.issueOf]
  rcases channel_lt_or_eq h2 with ⟨hlt, hne⟩ | ⟨hge, heq⟩
  · rw [if_pos hlt, if_neg hne, if_neg hne, if_neg hne]
    exact congrArg _ (hmove .issue)
  · rw [if_neg hge, if_pos heq, if_pos heq, if_pos heq]
    rw [heq] at hmove ⊢
    exact congrArg _ (hmove (afterMoves s.cfg.variant))

theorem State.TurnOf.step_warmup (h : s.TurnOf .warm) (h1 : 1 ≤ s.ch.toNat) (h2 : s.ch.toNat ≤ 16) :
    step s = .next (s.sample.issueOf (Batch.warmup s.cfg)) := by
  rw [h.step_warm, State.warmStep_eq (s := s.sample) h1 h2]
  rfl

theorem State.TurnOf.step_phase (h : s.TurnOf .issue) (h1 : 1 ≤ s.ch.toNat) (h2 : s.ch.toNat ≤ 16) :
    step s = .next (s.sample.issueOf (Batch.phase s.cfg s.ep)) := by
  rw [h.step_issue, State.issueStep_eq (s := s.sample) h1 h2]
  rfl

end batch

/-- Settles O39: the warm-up's batch, its delay counter left alone. -/
theorem warmupStepIssuesTheMove : Obligations.WarmupStepIssuesTheMove := by
  intro s hr hm hs ho h1 h2
  obtain ⟨-, -, hb⟩ := channel_of_counter s.ch h1 h2
  have hd : (s.sample.issueOf (Batch.warmup s.cfg)).dcnt = s.dcnt := ite_self _
  rw [State.TurnOf.step_warmup ⟨hr, hm, hs, ho⟩ h1 h2, hb, ← idleState_eq]
  exact congrArg (fun d => Host.Outcome.next { s.sample.issueOf (Batch.warmup s.cfg) with dcnt := d }) hd

/-- Settles O41: the phase's batch, for either endpoint and variant. -/
theorem phaseStepIssuesTheMove : Obligations.PhaseStepIssuesTheMove := by
  rintro s pos hr hm hs ho h1 h2 rfl
  obtain ⟨-, -, hb⟩ := channel_of_counter s.ch h1 h2
  rw [State.TurnOf.step_phase ⟨hr, hm, hs, ho⟩ h1 h2, hb, ← afterMoves_eq, ite_and, ← loadDelay_eq,
    ← Endpoint.target_eq]
  rfl

/-! ### The other states -/

/-- Settles O40: each wait tests the sampled switch. -/
theorem startWaitsFollowTheSwitch : Obligations.StartWaitsFollowTheSwitch := by
  intro s hr hm ho
  refine ⟨fun hs hn => ?_, fun hs hn => ?_, fun hs hn => ?_, fun hs hn => ?_, fun hs hn => ?_, fun hs hn => ?_⟩
  · rw [State.TurnOf.step_waitPress ⟨hr, hm, hs, ho⟩, State.waitPressStep, State.sample_env, if_pos hn]
  · rw [State.TurnOf.step_waitPress ⟨hr, hm, hs, ho⟩, State.waitPressStep, State.sample_env, if_neg (by simp [hn])]
    rfl
  · rw [State.TurnOf.step_waitRelease ⟨hr, hm, hs, ho⟩, State.waitReleaseStep, State.sample_env, if_neg (by simp [hn])]
  · rw [State.TurnOf.step_waitRelease ⟨hr, hm, hs, ho⟩, State.waitReleaseStep, State.sample_env, if_pos hn]
    rfl
  · rw [State.TurnOf.step_waitLow ⟨hr, hm, hs, ho⟩, State.waitLowStep, State.sample_env, if_pos hn]
  · rw [State.TurnOf.step_waitLow ⟨hr, hm, hs, ho⟩, State.waitLowStep, State.sample_env, if_neg (by simp [hn])]
    rfl

/-- Settles O42: the sentinel passes the channel check, so each of the two states starts its operation. -/
theorem pollStatesIssueRequestAndReceive : Obligations.PollStatesIssueRequestAndReceive :=
  fun _ hr hm ho => ⟨fun hs => State.TurnOf.step_pollReq ⟨hr, hm, hs, ho⟩,
    fun hs => State.TurnOf.step_pollResp ⟨hr, hm, hs, ho⟩⟩

/-- R160: the next phase as a record, the endpoint written out. -/
theorem State.nextPhase_eq (s : State) :
    s.nextPhase = { s with ep := if s.ep = .a then .b else .a, ch := 1, pcnt := 0, seq := .issue } := by
  rw [← Endpoint.flip_eq]
  rfl

theorem State.delayStep_zero {s : State} (h : s.dcnt = 0) : s.delayStep = s.nextPhase := if_pos h

theorem State.delayStep_pos {s : State} (h : s.dcnt ≠ 0) : s.delayStep = { s with dcnt := s.dcnt - 1 } := if_neg h

/-- Settles O44: a counter that is not 0 goes down without a borrow. -/
theorem delayStepCountsDown : Obligations.DelayStepCountsDown := by
  intro s hr hm hs ho
  have hstep := State.TurnOf.step_delay ⟨hr, hm, hs, ho⟩
  refine ⟨fun hd => ?_, fun hd => ⟨s.dcnt - 1, ?_, ?_⟩⟩
  · rw [hstep, State.delayStep_zero (s := s.sample) hd, State.nextPhase_eq]
    rfl
  · bv_omega
  · rw [hstep, State.delayStep_pos (s := s.sample) hd]
    rfl

section test
variable {s : State}

theorem State.testStep_arrived (h : s.pf.read 1 = some (s.ep.target s.cfg)) : s.testStep = .ok s.nextPhase := by
  rcases s.testStep_cases with ⟨hn, -⟩ | ⟨v, hv, ⟨-, e⟩ | ⟨hne, -⟩ | ⟨hne, -⟩⟩
  · simp [hn] at h
  · exact e
  · exact absurd (Option.some.inj (hv.symm.trans h)) hne
  · exact absurd (Option.some.inj (hv.symm.trans h)) hne

theorem State.testStep_unwritten (h : s.pf.read 1 = none) : s.testStep = .error .fUnwritten := by
  rcases s.testStep_cases with ⟨-, e⟩ | ⟨v, hv, -⟩
  · exact e
  · simp [h] at hv

/-- R174: at another position the test counts, or halts where the count is full. -/
theorem State.testStep_elsewhere {v : Pos} (h : s.pf.read 1 = some v) (hv : v ≠ s.ep.target s.cfg) :
    s.testStep = if pollExpired s.cfg.pollLimit s.pcnt then .error .eArrival
      else .ok { s with pcnt := pollCount s.cfg.pollLimit s.pcnt, seq := .pollReq } := by
  rcases s.testStep_cases with ⟨hn, -⟩ | ⟨w, hw, ⟨heq, -⟩ | ⟨-, hp, e⟩ | ⟨-, hp, e⟩⟩
  · simp [hn] at h
  · exact absurd ((Option.some.inj (h.symm.trans hw)).trans heq) hv
  · rw [e, if_pos hp]
  · rw [e, if_neg (by simp [hp])]

end test

/-- Settles O43, by the outcome of the test and by the poll limit. -/
theorem arrivalTestEndsOrRepeatsThePhase : Obligations.ArrivalTestEndsOrRepeatsThePhase := by
  rintro s pos hr hm hs ho rfl
  rw [← Endpoint.target_eq, State.TurnOf.step_test ⟨hr, hm, hs, ho⟩]
  refine ⟨fun hv => ?_, fun hn => ?_, fun v hv hne => ?_⟩
  · rw [State.testStep_arrived (s := s.sample) hv, State.settle_ok, State.nextPhase_eq]
    rfl
  · rw [State.testStep_unwritten (s := s.sample) hn]
    rfl
  · rw [State.testStep_elsewhere (s := s.sample) hv hne, State.sample_cfg, State.sample_pcnt]
    refine ⟨fun hp => ?_, fun m hp => ⟨fun hc => ?_, fun hc => ?_⟩⟩ <;> rw [hp]
    · rfl
    · rw [if_pos (by simp [pollExpired, hc])]
      rfl
    · rw [if_neg (by simp [pollExpired, hc])]
      rfl

/-! ### What the switch makes a difference to -/

/-- The three start waits (R163 to R165). -/
def SeqState.isStartWait (q : SeqState) : Prop := q = .waitPress ∨ q = .waitRelease ∨ q = .waitLow

/-- Outside the start waits the sequencer's rules read no port. -/
theorem seqStep_seeing_of_not_startWait {v : Env} {s : State} (h : ¬ s.seq.isStartWait) :
    forgetEnv (seqStep (s.seeing v)) = forgetEnv (seqStep s) := by
  unfold seqStep
  rw [State.seeing_seq]
  cases hs : s.seq with
  | waitPress => exact absurd (.inl hs) h
  | waitRelease => exact absurd (.inr (.inl hs)) h
  | waitLow => exact absurd (.inr (.inr hs)) h
  | warm => simp only [State.warmStep_seeing, State.settle_seeing]
  | issue => simp only [State.issueStep_seeing, State.settle_seeing]
  | pollReq => simp only [State.pollReqStep, State.issueFbreq_seeing, State.settle_seeing]
  | test => simp only [State.testStep_seeing, State.settle_seeing]
  | delay =>
    rw [State.delayStep_seeing]
    rfl
  | pollResp | hIdle | error | fault => rfl

/-- Settles O37: the engines and the host port do not read `start_n`, nor does the sequencer outside the waits. -/
theorem switchIsSampledOnlyInTheStartWaits : Obligations.SwitchIsSampledOnlyInTheStartWaits := by
  intro s b hw
  unfold step
  rw [State.sample_mapNextEnv]
  exact cycle_seeing rfl (fun _ => txEngine_seeing rfl) (fun _ => rxEngine_seeing rfl rfl)
    (fun ho hm => seqStep_seeing_of_not_startWait fun hs => hw ⟨ho, hm, hs⟩) fun _ _ _ => hostStep_seeing rfl rfl

/-! ### Where the steps lead -/

/-- R162: the only rule besides reset that resumes in S_WARM is S_WARM's own. -/
theorem StepResult.seq_ne_warm {s t : State} (h : StepResult s t) (hr : s.env.rst = false) (hs : s.seq ≠ .warm) :
    t.seq ≠ .warm := by
  cases h with
  | reset hrst => simp [hr] at hrst
  | halt s' c _ _ _ _ e =>
    subst e
    cases c <;> exact nofun
  | warm _ _ _ _ _ _ _ hw => exact absurd hw hs
  | issue _ q _ _ _ _ _ _ _ _ hq e =>
    subst e
    rcases hq with ⟨-, -, rfl, -⟩ | ⟨-, -, rfl, -⟩
    · exact nofun
    · show afterMoves s.cfg.variant ≠ .warm
      cases s.cfg.variant <;> exact nofun
  | press | start | pollReq | pollResp | flip | again | hostMove | hostFbreq | hostFbrecv => subst_vars; exact nofun
  | _ => subst_vars; exact hs

/-- Settles O46: no rule leads to S_WARM from elsewhere. -/
theorem warmupIsNeverRepeated : Obligations.WarmupIsNeverRepeated :=
  fun _ _ h hr hs => (step_result h).seq_ne_warm hr hs

/-- The last move of a phase resumes inside the loop (R168, R177). -/
theorem loopState_afterMoves (v : Variant) : loopState v (afterMoves v) = true := by cases v <;> rfl

/-- A state of the loop is not the host interface's (R22). -/
theorem Inv.mode_of_loopState {s : State} (hi : Inv s) (hl : loopState s.cfg.variant s.seq = true) :
    s.cfg.mode = .seq := by
  obtain ⟨-, hseq, -⟩ := hi
  cases hm : s.cfg.mode with
  | seq => rfl
  | direct =>
    rw [State.seqLegal, hm] at hseq
    revert hl hseq
    cases s.seq <;> simp [loopState, seqAllowed]

/-- R177: every rule of the loop's states resumes in a state of the loop or halts. -/
theorem StepResult.loopState_or_halted {s t : State} (h : StepResult s t) (hr : s.env.rst = false)
    (hm : s.cfg.mode = .seq) (hl : loopState s.cfg.variant s.seq = true) :
    loopState s.cfg.variant t.seq = true ∨ t.halted = true := by
  cases h with
  | reset hrst => simp [hr] at hrst
  | halt s' c _ _ _ _ e => exact .inr (e ▸ s'.halted_halt c)
  | warm _ _ _ _ _ _ _ hs => simp [hs, loopState] at hl
  | press _ _ _ _ hs => simp [hs, loopState] at hl
  | issue _ q _ _ _ _ _ _ _ _ hq e =>
    subst e
    rcases hq with ⟨-, -, rfl, -⟩ | ⟨-, -, rfl, -⟩
    · exact .inl rfl
    · exact .inl (loopState_afterMoves s.cfg.variant)
  | start | flip => subst_vars; exact .inl rfl
  | pollReq _ _ _ _ hs e | pollResp _ _ _ _ hs e | again _ _ _ _ hs _ e =>
    rw [hs] at hl
    subst e
    exact .inl hl
  | hostMove _ _ _ _ _ _ hd | hostFbreq _ _ _ _ hd | hostFbrecv _ _ _ hd | hostArrtest _ _ _ _ hd =>
    simp [hm] at hd
  | _ => subst_vars; exact .inl hl

/-- Settles O45: the invariant keeps the loop's states to SEQ mode, and no step changes the variant. -/
theorem oscillationLoopIsNeverLeft : Obligations.OscillationLoopIsNeverLeft := by
  intro s t hi h hr hl
  rw [configurationIsFixed s t h]
  exact (step_result h).loopState_or_halted hr (hi.mode_of_loopState hl) hl

end Sys2Proof.Machine
end

section
/-! Stretches of a run in SEQ mode (43_motion_sequencer.md R178, R179): what n steps send and take, for an operation of
either engine, for a batch of sixteen moves, for a delay and for one exchange of Variant 1. -/

namespace Sys2Proof.Machine

/-! ### Stretches -/

/-- The n steps from s end in t; they sent the bytes `out` and took the bytes `inn`. -/
structure Stretch (n : Nat) (out inn : List Byte) (s t : State) : Prop where
  run : Host.Core.run Sys2Proof.core n s = .next t
  cfg : t.cfg = s.cfg
  outbound : t.outbound = s.outbound ++ out
  inbound : t.inbound = s.inbound ++ inn
  inputs : t.inputs = s.inputs.drop n

section stretch
variable {s t u : State} {n m : Nat} {out out' inn inn' : List Byte}

theorem Stretch.refl (s : State) : Stretch 0 [] [] s s :=
  ⟨rfl, rfl, (List.append_nil _).symm, (List.append_nil _).symm, rfl⟩

theorem Stretch.trans (h : Stretch n out inn s t) (h' : Stretch m out' inn' t u) :
    Stretch (n + m) (out ++ out') (inn ++ inn') s u where
  run := (run_add n m h.run).trans h'.run
  cfg := h'.cfg.trans h.cfg
  outbound := by rw [h'.outbound, h.outbound, List.append_assoc]
  inbound := by rw [h'.inbound, h.inbound, List.append_assoc]
  inputs := by rw [h'.inputs, h.inputs, List.drop_drop]

/-- One step, its use of the links given. -/
theorem Stretch.of_step (h : step s = .next t) (hout : t.outbound = s.outbound ++ out)
    (hinn : t.inbound = s.inbound ++ inn) (hin : t.inputs = s.inputs.tail) : Stretch 1 out inn s t :=
  ⟨run_succ 0 h, configurationIsFixed s t h, hout, hinn, by rw [hin, List.drop_one]⟩

/-- One step that uses neither link. -/
theorem Stretch.of_quiet_step (h : step s = .next t) (hout : t.outbound = s.outbound)
    (hinn : t.inbound = s.inbound) (hin : t.inputs = s.inputs.tail) : Stretch 1 [] [] s t :=
  .of_step h (by rw [hout, List.append_nil]) (by rw [hinn, List.append_nil]) hin

theorem Stretch.outbound_eq (h : Stretch n [] inn s t) : t.outbound = s.outbound := by
  rw [h.outbound, List.append_nil]

theorem Stretch.inbound_eq (h : Stretch n out [] s t) : t.inbound = s.inbound := by
  rw [h.inbound, List.append_nil]

end stretch

/-- The registers that the engines leave to the sequencer. -/
structure SequencerKept (s t : State) : Prop where
  seq : t.seq = s.seq
  ep : t.ep = s.ep
  ch : t.ch = s.ch
  dcnt : t.dcnt = s.dcnt
  pcnt : t.pcnt = s.pcnt

theorem SequencerKept.trans {s t u : State} (h : SequencerKept s t) (h' : SequencerKept t u) : SequencerKept s u :=
  ⟨h'.seq.trans h.seq, h'.ep.trans h.ep, h'.ch.trans h.ch, h'.dcnt.trans h.dcnt, h'.pcnt.trans h.pcnt⟩

/-! ### Sending a frame -/

/-- Byte k of a frame and the m bytes after it. -/
def Frame.bytesFrom (f : Frame) (k : BitVec 2) : Nat → List Byte
  | 0 => [f.byte k]
  | m + 1 => f.byte k :: f.bytesFrom (k + 1#2) m

/-- R106: a legal frame goes over the link as it was latched. -/
theorem txEngine_of_legal {s : State} (hf : frameLegal s.cfg.rangeCheck s.frm s.flen = true) :
    txEngine s = .next (s.settle (s.sendByte s.frm s.flen)) := by
  rcases frame_cases hf with ⟨c, h, l, sp, hn, -, hfrm, hl⟩ | ⟨c, hn, hb0, hb1, -, hl⟩
  · rw [txEngine_of_latchedInstr hl, exec_frameMove, hfrm, hn]
    rfl
  · have hfrm : requestFrameOf s.frm c = s.frm := by rw [requestFrameOf, ← hb1, show 0x40#8 = s.frm.b0 from hb0.symm]
    rw [txEngine_of_latchedInstr hl, exec_frameFbreq, hfrm, hn]
    rfl

/-- The transmit engine has the next step, on a legal frame and a ready link. -/
structure State.Sending (s : State) : Prop where
  running : s.halted = false
  busy : s.op = .tx
  legal : frameLegal s.cfg.rangeCheck s.frm s.flen = true

section send
variable {s : State}

theorem State.Sending.step_last (h : s.Sending) (hr : s.nextEnv.rst = false) (ht : s.nextEnv.txReady = true)
    (hk : s.k.toNat + 1 = s.flen.toNat) :
    step s = .next { s.sample.txByte (s.frm.byte s.k) with wcnt := 0, op := .idle, k := 0#2 } := by
  have hlast : s.k.setWidth 3 = s.flen - 1#3 := by revert hk; generalize s.k = k, s.flen = n; revert k n; decide
  rw [step_tx hr h.running h.busy, txEngine_of_legal (s := s.sample) h.legal,
    State.sample_frm, State.sample_flen, State.sendByte_last (s := s.sample) _ ht hlast]
  rfl

theorem State.Sending.step_more (h : s.Sending) (hr : s.nextEnv.rst = false) (ht : s.nextEnv.txReady = true)
    (hk : s.k.toNat + 1 < s.flen.toNat) :
    step s = .next { s.sample.txByte (s.frm.byte s.k) with wcnt := 0, k := s.k + 1#2 } := by
  have hmore : s.k.setWidth 3 ≠ s.flen - 1#3 := by revert hk; generalize s.k = k, s.flen = n; revert k n; decide
  rw [step_tx hr h.running h.busy, txEngine_of_legal (s := s.sample) h.legal,
    State.sample_frm, State.sample_flen, State.sendByte_more (s := s.sample) _ ht hmore]
  rfl

/-- R71, R75: no frame is longer than four bytes. -/
theorem State.Sending.flen_le (h : s.Sending) : s.flen.toNat ≤ 4 := by
  rcases frame_cases h.legal with ⟨_, _, _, _, hn, -⟩ | ⟨_, hn, -⟩ <;> rw [hn] <;> decide

/-- R106, R179: with the link ready the m + 1 bytes that are left of the frame take m + 1 steps. -/
theorem State.Sending.sends_rest (h : s.Sending) {m : Nat} (hk : s.k.toNat + m + 1 = s.flen.toNat)
    (hr : SendReady (m + 1) s) :
    ∃ t, Stretch (m + 1) (s.frm.bytesFrom s.k m) [] s t ∧ SequencerKept s t ∧ t.op = .idle ∧ t.pf = s.pf := by
  induction m generalizing s with
  | zero =>
    obtain ⟨hrst, htx⟩ := hr.next
    have hstep := h.step_last hrst htx hk
    exact ⟨_, .of_step hstep rfl (List.append_nil _).symm rfl, ⟨rfl, rfl, rfl, rfl, rfl⟩, rfl, rfl⟩
  | succ m ih =>
    obtain ⟨hrst, htx⟩ := hr.next
    have hlen := h.flen_le
    have hnext : (s.k + 1#2).toNat + m + 1 = s.flen.toNat := by bv_omega
    have hstep := h.step_more hrst htx (by omega)
    have hfirst := Stretch.of_step hstep rfl (List.append_nil _).symm rfl
    obtain ⟨t, hrest, ⟨hseq, hep, hch, hdcnt, hpcnt⟩, hidle, hpf⟩ :=
      ih (s := { s.sample.txByte (s.frm.byte s.k) with wcnt := 0, k := s.k + 1#2 })
      ⟨h.running, h.busy, h.legal⟩ hnext (SendReady.drop (Nat.add_comm _ 1 ▸ hr) hfirst.inputs)
    refine ⟨t, ?_, ⟨hseq, hep, hch, hdcnt, hpcnt⟩, hidle, hpf⟩
    rw [Nat.add_comm]
    exact hfirst.trans hrest

end send

/-! ### A batch of sixteen moves -/

/-- The sequencer issues the moves of b from `b.seq`, under a configuration and for an endpoint. -/
structure Batch.IssuedUnder (b : Batch) (c : Config) (e : Endpoint) : Prop where
  step_eq : ∀ s : State, s.cfg = c → s.ep = e → s.TurnOf b.seq → 1 ≤ s.ch.toNat → s.ch.toNat ≤ 16 →
    step s = .next (s.sample.issueOf b)
  seq_running : b.seq.isHalted = false
  next_running : b.next.isHalted = false

theorem Batch.warmup_issued (c : Config) (e : Endpoint) : (Batch.warmup c).IssuedUnder c e where
  step_eq := by
    rintro s rfl - ht h1 h2
    exact ht.step_warmup h1 h2
  seq_running := rfl
  next_running := by
    show (idleState c.variant).isHalted = false
    cases c.variant <;> rfl

theorem Batch.phase_issued (c : Config) (e : Endpoint) : (Batch.phase c e).IssuedUnder c e where
  step_eq := by
    rintro s rfl rfl ht h1 h2
    exact ht.step_phase h1 h2
  seq_running := rfl
  next_running := by
    show (afterMoves c.variant).isHalted = false
    cases c.variant <;> rfl

/-- The bytes of the moves of channels 1 to j (R178). -/
def Batch.bytes (b : Batch) (j : Nat) : List Byte :=
  (List.range j).flatMap fun i => moveBytes (BitVec.ofNat 6 (i + 1)) b.pos b.speed

theorem Batch.bytes_succ (b : Batch) (j : Nat) :
    b.bytes (j + 1) = b.bytes j ++ moveBytes (BitVec.ofNat 6 (j + 1)) b.pos b.speed := by
  rw [Batch.bytes, List.range_succ, List.flatMap_append, List.flatMap_singleton, ← Batch.bytes]

section batch
variable {b : Batch} {s : State}

/-- A latched move of the batch is a legal frame in progress. -/
theorem State.sending_issueOf (hq : b.seq.isHalted = false) (hn : b.next.isHalted = false) (h1 : 1 ≤ s.ch.toNat)
    (h2 : s.ch.toNat ≤ 16) : (s.issueOf b).Sending where
  running := by
    show SeqState.isHalted (if s.ch = 16 then b.next else b.seq) = false
    split
    · exact hn
    · exact hq
  busy := rfl
  legal := by
    obtain ⟨hok, -⟩ := channel_of_counter s.ch h1 h2
    have hf := frameLegal_move (hok s.cfg.rangeCheck) (b.pos.setWidth 16) (b.speed.setWidth 8)
    rwa [moveFrame_channel h1 h2] at hf

/-- R179: with the link ready one move takes five steps, its issue and its four bytes. -/
theorem Batch.IssuedUnder.sends_move (hb : b.IssuedUnder s.cfg s.ep) (hm : s.cfg.mode = .seq) (hs : s.seq = b.seq)
    (ho : s.op = .idle) (h1 : 1 ≤ s.ch.toNat) (h2 : s.ch.toNat ≤ 16) (hr : SendReady 5 s) :
    ∃ t, Stretch 5 (moveBytes (BitVec.ofNat 6 s.ch.toNat) b.pos b.speed) [] s t ∧
      SequencerKept (s.issueOf b) t ∧ t.op = .idle ∧ t.pf = s.pf := by
  obtain ⟨hrst, -⟩ := hr.next
  have hstep := hb.step_eq s rfl rfl ⟨hrst, hm, hs, ho⟩ h1 h2
  have hissue := Stretch.of_quiet_step hstep rfl rfl rfl
  have hsending := State.sending_issueOf (s := s.sample) hb.seq_running hb.next_running h1 h2
  obtain ⟨t, hframe, ⟨hseq, hep, hch, hdcnt, hpcnt⟩, hidle, hpf⟩ :=
    hsending.sends_rest (m := 3) rfl (SendReady.drop (n := 1) hr hissue.inputs)
  exact ⟨t, hissue.trans hframe, ⟨hseq, hep, hch, hdcnt, hpcnt⟩, hidle, hpf⟩

/-- The batch that began in s is underway in t: the moves of channels 1 to j are sent, that of j + 1 is next. -/
structure Batch.Underway (b : Batch) (s : State) (j : Nat) (t : State) : Prop
    extends Stretch (5 * j) (b.bytes j) [] s t where
  seq : t.seq = b.seq
  op : t.op = .idle
  ch : t.ch.toNat = j + 1
  ep : t.ep = s.ep
  dcnt : t.dcnt = s.dcnt
  pf : t.pf = s.pf

/-- What one more move makes of a batch underway. -/
theorem Batch.Underway.sends_move {t : State} {j : Nat} (h : b.Underway s j t) (hb : b.IssuedUnder s.cfg s.ep)
    (hm : s.cfg.mode = .seq) (hj : j < 16) (hr : SendReady 80 s) :
    ∃ u, Stretch (5 * (j + 1)) (b.bytes (j + 1)) [] s u ∧ SequencerKept (t.issueOf b) u ∧ u.op = .idle ∧
      u.pf = s.pf := by
  have hb' : b.IssuedUnder t.cfg t.ep := by rwa [h.cfg, h.ep]
  have hready : SendReady 5 t := SendReady.drop (hr.mono (by omega)) h.inputs
  have hch := h.ch
  obtain ⟨u, hmove, hkept, hidle, hpf⟩ :=
    hb'.sends_move (h.cfg ▸ hm) h.seq h.op (by omega) (by omega) hready
  rw [hch] at hmove
  refine ⟨u, ?_, hkept, hidle, hpf.trans h.pf⟩
  rw [Nat.mul_succ, Batch.bytes_succ]
  exact h.toStretch.trans hmove

/-- Before channel 16 the batch goes on, by induction on the moves sent. -/
theorem Batch.IssuedUnder.underway (hb : b.IssuedUnder s.cfg s.ep) (hm : s.cfg.mode = .seq) (hs : s.seq = b.seq)
    (ho : s.op = .idle) (hc : s.ch = 1) (hr : SendReady 80 s) {j : Nat} (hj : j < 16) : ∃ t, b.Underway s j t := by
  induction j with
  | zero => exact ⟨s, .refl s, hs, ho, by rw [hc]; rfl, rfl, rfl, rfl⟩
  | succ j ih =>
    obtain ⟨t, ht⟩ := ih (by omega)
    obtain ⟨u, hu, hkept, hidle, hpf⟩ := ht.sends_move hb hm (by omega) hr
    have hch := ht.ch
    have hne : t.ch ≠ 16 := by bv_omega
    have hseq : u.seq = b.seq := hkept.seq.trans (if_neg hne)
    have hch' : u.ch = t.ch + 1 := hkept.ch.trans (if_neg hne)
    have hdcnt : u.dcnt = t.dcnt := hkept.dcnt.trans (if_neg hne)
    exact ⟨u, hu, hseq, hidle, by bv_omega, hkept.ep.trans ht.ep, hdcnt.trans ht.dcnt, hpf⟩

/-- R178, R179: with the link ready a batch takes 80 steps and sends sixteen frames. -/
theorem Batch.IssuedUnder.sends_sixteen (hb : b.IssuedUnder s.cfg s.ep) (hm : s.cfg.mode = .seq) (hs : s.seq = b.seq)
    (ho : s.op = .idle) (hc : s.ch = 1) (hr : SendReady 80 s) :
    ∃ t, Stretch 80 (batchBytes b.pos b.speed) [] s t ∧ t.seq = b.next ∧ t.op = .idle ∧ t.ch = 1 ∧ t.ep = s.ep ∧
      t.dcnt = b.load s.dcnt ∧ t.pf = s.pf := by
  obtain ⟨t, ht⟩ := hb.underway hm hs ho hc hr (j := 15) (by decide)
  obtain ⟨u, hu, hkept, hidle, hpf⟩ := ht.sends_move hb hm (by decide) hr
  have h16 : t.ch = 16 := BitVec.eq_of_toNat_eq ht.ch
  have hdcnt : u.dcnt = b.load t.dcnt := hkept.dcnt.trans (if_pos h16)
  exact ⟨u, hu, hkept.seq.trans (if_pos h16), hidle, hkept.ch.trans (if_pos h16), hkept.ep.trans ht.ep,
    ht.dcnt ▸ hdcnt, hpf⟩

end batch

/-- Settles O47: the warm-up's batch. -/
theorem warmupSendsSixteenMoves : Obligations.WarmupSendsSixteenMoves := by
  intro s hm hs ho hc hr
  obtain ⟨t, ht, hseq, hop, hch, hep, -, hpf⟩ := (Batch.warmup_issued s.cfg s.ep).sends_sixteen hm hs ho hc hr
  exact ⟨t, ht.run, ht.outbound, ht.inbound_eq, hseq.trans (idleState_eq _), hop, hch, hep, hpf, ht.cfg, ht.inputs⟩

/-- Settles O48: the phase's batch, whose last move loads the delay budget in Variant 2. -/
theorem phaseSendsSixteenMoves : Obligations.PhaseSendsSixteenMoves := by
  intro s hm hs ho hc hr
  obtain ⟨t, ht, hseq, hop, hch, hep, hd, hpf⟩ := (Batch.phase_issued s.cfg s.ep).sends_sixteen hm hs ho hc hr
  rw [← Endpoint.target_eq]
  exact ⟨t, ht.run, ht.outbound, ht.inbound_eq, hseq.trans (afterMoves_eq _),
    fun hv => hd.trans ((loadDelay_eq _ _).trans (if_pos hv)), hop, hch, hep, hpf, ht.cfg, ht.inputs⟩

/-! ### A delay -/

/-- R175: by induction on the count; the step at 0 starts the next phase. -/
theorem State.delays {s : State} {d : Nat} (hm : s.cfg.mode = .seq) (hs : s.seq = .delay) (ho : s.op = .idle)
    (hd : s.dcnt.toNat = d) (hr : NoResetFor (d + 1) s) :
    ∃ t, Stretch (d + 1) [] [] s t ∧ t.seq = .issue ∧ t.op = .idle ∧ t.ch = 1 ∧ t.ep = s.ep.flip ∧ t.pf = s.pf := by
  induction d generalizing s with
  | zero =>
    have hstep := State.TurnOf.step_delay ⟨hr.next, hm, hs, ho⟩
    have h0 : s.dcnt = 0 := BitVec.eq_of_toNat_eq hd
    rw [State.delayStep_zero (s := s.sample) h0] at hstep
    exact ⟨_, .of_quiet_step hstep rfl rfl rfl, rfl, ho, rfl, rfl, rfl⟩
  | succ d ih =>
    have hstep := State.TurnOf.step_delay ⟨hr.next, hm, hs, ho⟩
    have hne : s.dcnt ≠ 0 := by bv_omega
    rw [State.delayStep_pos (s := s.sample) hne] at hstep
    have hfirst := Stretch.of_quiet_step hstep rfl rfl rfl
    have hcount : (s.dcnt - 1).toNat = d := by bv_omega
    obtain ⟨t, hrest, ht⟩ := ih (s := { s.sample with dcnt := s.dcnt - 1 }) hm hs ho hcount
      (NoResetFor.drop (Nat.add_comm _ 1 ▸ hr) hfirst.inputs)
    refine ⟨t, ?_, ht⟩
    rw [Nat.add_comm]
    exact hfirst.trans hrest

/-- Settles O49: the count of `State.delays` is the delay counter itself. -/
theorem delayTakesItsCountPlusOneSteps : Obligations.DelayTakesItsCountPlusOneSteps := by
  intro s hm hs ho hr
  obtain ⟨t, ht, hseq, hop, hch, hep, hpf⟩ := State.delays hm hs ho rfl hr
  exact ⟨t, ht.run, ht.outbound_eq, ht.inbound_eq, hseq, hop, hch, hep.trans (Endpoint.flip_eq _), hpf, ht.cfg,
    ht.inputs⟩

/-! ### One exchange of Variant 1 -/

/-- R172, R75: with the link ready the request takes three steps, its issue and its two bytes. -/
theorem State.TurnOf.sends_request {s : State} (h : s.TurnOf .pollReq) (hr : SendReady 2 s.sample) :
    ∃ t, Stretch 3 [0x40, 0x41] [] s t ∧ SequencerKept { s with seq := .pollResp } t ∧ t.op = .idle ∧
      t.pf = s.pf := by
  have hissue := Stretch.of_quiet_step h.step_pollReq rfl rfl rfl
  have hlegal : frameLegal s.cfg.rangeCheck (requestFrame s.frm 1#8) 2#3 = true :=
    frameLegal_request (by cases s.cfg.rangeCheck <;> rfl) s.frm
  have hsending : (s.sample.startTx (requestFrame s.frm 1#8) 2#3 .pollResp).Sending := ⟨rfl, rfl, hlegal⟩
  obtain ⟨t, hframe, ⟨hseq, hep, hch, hdcnt, hpcnt⟩, hidle, hpf⟩ := hsending.sends_rest (m := 1) rfl hr
  exact ⟨t, hissue.trans hframe, ⟨hseq, hep, hch, hdcnt, hpcnt⟩, hidle, hpf⟩

theorem decodeResponse_of_decodeFeedback {e h l : Byte} {c : BitVec 5} {v : Pos}
    (hd : decodeFeedback e h l = some (c, v)) : decodeResponse e h l = .ok (c, v) := by
  unfold decodeFeedback at hd
  cases hr : decodeResponse e h l with
  | ok p =>
    rw [hr] at hd
    exact congrArg _ (Option.some.inj hd)
  | error _ => simp [hr, Except.toOption] at hd

/-- An input under which the receive engine takes a byte. -/
structure Delivers (e : Env) : Prop where
  noReset : e.rst = false
  ready : e.rxReady = true

/-- The receive engine has the next step, and the inputs e and then l are listed, a byte on the link in e. -/
structure State.Taking (s : State) (e : Env) (l : List Env) : Prop where
  running : s.halted = false
  busy : s.op = .rx
  inputs : s.inputs = e :: l
  delivers : Delivers e

section take
variable {s t : State} {e e' : Env} {l : List Env}

theorem State.Taking.env_eq (h : s.Taking e l) : s.sample.env = e := State.nextEnv_of_inputs h.inputs

theorem State.Taking.ready_eq (h : s.Taking e l) : s.sample.env.rxReady = true := h.env_eq ▸ h.delivers.ready

theorem State.Taking.step_eq (h : s.Taking e l) : step s = rxEngine s.sample :=
  step_rx ((congrArg Env.rst h.env_eq).trans h.delivers.noReset) h.running h.busy

/-- R53: the byte taken is the one that the input presented. -/
theorem State.Taking.stretch (h : s.Taking e l) (hstep : step s = .next t)
    (hinn : t.inbound = s.sample.rxByte.inbound) (hout : t.outbound = s.outbound) (hin : t.inputs = s.inputs.tail) :
    Stretch 1 [] [e.rxData] s t := by
  refine .of_step hstep (by rw [hout, List.append_nil]) ?_ hin
  rw [hinn, State.rxByte_inbound, h.env_eq, State.sample_inbound]

theorem State.Taking.takes_first (h : s.Taking e l) (hk : s.k = 0) :
    ∃ t, Stretch 1 [] [e.rxData] s t ∧ SequencerKept s t ∧ t.op = .rx ∧ t.k = 1 ∧ t.rxb0 = e.rxData ∧
      t.pf = s.pf := by
  have hstep := h.step_eq.trans (rxEngine_first h.ready_eq hk)
  exact ⟨_, h.stretch hstep rfl rfl rfl, ⟨rfl, rfl, rfl, rfl, rfl⟩, h.busy, rfl, congrArg Env.rxData h.env_eq, rfl⟩

theorem State.Taking.takes_second (h : s.Taking e l) (hk : s.k = 1) :
    ∃ t, Stretch 1 [] [e.rxData] s t ∧ SequencerKept s t ∧ t.op = .rx ∧ t.k = 2 ∧ t.rxb0 = s.rxb0 ∧
      t.rxb1 = e.rxData ∧ t.pf = s.pf := by
  have hstep := h.step_eq.trans (rxEngine_second h.ready_eq hk)
  exact ⟨_, h.stretch hstep rfl rfl rfl, ⟨rfl, rfl, rfl, rfl, rfl⟩, h.busy, rfl, rfl, congrArg Env.rxData h.env_eq,
    rfl⟩

/-- R128: the third byte ends the receive; its pair is written. -/
theorem State.Taking.takes_third {c : BitVec 5} {v : Pos} (h : s.Taking e l) (hk : s.k = 2)
    (hd : decodeResponse s.rxb0 s.rxb1 e.rxData = .ok (c, v)) :
    ∃ t, Stretch 1 [] [e.rxData] s t ∧ SequencerKept s t ∧ t.op = .idle ∧ t.pf = s.pf.write c.toNat v := by
  have hd' := (decodeResponse_low s.rxb0 s.rxb1 s.sample.env.rxData).trans (h.env_eq ▸ hd)
  have hstep := (h.step_eq.trans (rxEngine_third h.ready_eq hk)).trans (exec_frameFbresp_of_ok hd')
  exact ⟨_, h.stretch hstep rfl rfl rfl, ⟨rfl, rfl, rfl, rfl, rfl⟩, rfl, rfl⟩

/-- After a byte that did not end the response the engine takes the next one. -/
theorem State.Taking.next (h : s.Taking e (e' :: l)) {b : Byte} (ht : Stretch 1 [] [b] s t)
    (hkept : SequencerKept s t) (hop : t.op = .rx) (he : Delivers e') : t.Taking e' l where
  running := (congrArg SeqState.isHalted hkept.seq).trans h.running
  busy := hop
  inputs := by rw [ht.inputs, h.inputs, List.drop_one, List.tail_cons]
  delivers := he

end take

/-- R127, R128: the three bytes of a response, with the link ready. -/
theorem State.takes_response {s : State} {e1 e2 e3 : Env} {l : List Env} {c : BitVec 5} {v : Pos}
    (h : s.Taking e1 (e2 :: e3 :: l)) (hk : s.k = 0) (h2 : Delivers e2) (h3 : Delivers e3)
    (hd : decodeResponse e1.rxData e2.rxData e3.rxData = .ok (c, v)) :
    ∃ t, Stretch 3 [] [e1.rxData, e2.rxData, e3.rxData] s t ∧ SequencerKept s t ∧ t.op = .idle ∧
      t.pf = s.pf.write c.toNat v := by
  obtain ⟨t1, ht1, hkept1, hop1, hk1, hb0, hpf1⟩ := h.takes_first hk
  have htaking1 := h.next ht1 hkept1 hop1 h2
  obtain ⟨t2, ht2, hkept2, hop2, hk2, hb0', hb1, hpf2⟩ := htaking1.takes_second hk1
  have htaking2 := htaking1.next ht2 hkept2 hop2 h3
  rw [← hb1, ← hb0, ← hb0'] at hd
  obtain ⟨t3, ht3, hkept3, hop3, hpf3⟩ := htaking2.takes_third hk2 hd
  exact ⟨t3, (ht1.trans ht2).trans ht3, (hkept1.trans hkept2).trans hkept3, hop3, by rw [hpf3, hpf2, hpf1]⟩

/-- The inputs of an exchange are listed: no reset, the link ready for the two bytes of the request, and then for the
three of the response. -/
structure State.ExchangeInputs (s : State) (i0 i1 i2 i3 i4 i5 i6 i7 : Env) (rest : List Env) : Prop where
  inputs : s.inputs = i0 :: i1 :: i2 :: i3 :: i4 :: i5 :: i6 :: i7 :: rest
  noReset : ∀ e ∈ [i0, i1, i2, i3, i4, i5, i6, i7], e.rst = false
  sends : i1.txReady = true ∧ i2.txReady = true
  delivers : i4.rxReady = true ∧ i5.rxReady = true ∧ i6.rxReady = true

/-- R172, R173: with the links ready, request and receive take seven steps, and the test of PF[1] comes next. -/
theorem State.ExchangeInputs.reaches_test {s : State} {i0 i1 i2 i3 i4 i5 i6 i7 : Env} {rest : List Env} {c : BitVec 5}
    {v : Pos} (hx : s.ExchangeInputs i0 i1 i2 i3 i4 i5 i6 i7 rest)
    (hm : s.cfg.mode = .seq) (hs : s.seq = .pollReq) (ho : s.op = .idle)
    (hd : decodeFeedback i4.rxData i5.rxData i6.rxData = some (c, v)) :
    ∃ u, Stretch 7 [0x40, 0x41] [i4.rxData, i5.rxData, i6.rxData] s u ∧ u.TurnOf .test ∧ u.ep = s.ep ∧
      u.pcnt = s.pcnt ∧ u.pf = s.pf.write c.toNat v := by
  obtain ⟨hi, hr, ⟨ht1, ht2⟩, hr4, hr5, hr6⟩ := hx
  simp only [List.forall_mem_cons] at hr
  obtain ⟨h0, h1, h2, h3, h4, h5, h6, h7, -⟩ := hr
  have hturn : s.TurnOf .pollReq := ⟨by rw [State.nextEnv_of_inputs hi, h0], hm, hs, ho⟩
  have hready : SendReady 2 s.sample := ⟨by simp [hi], by simp [hi, h1, h2, ht1, ht2]⟩
  obtain ⟨t, hsend, hkept, hidle, hpf⟩ := hturn.sends_request hready
  have hti : t.inputs = i3 :: i4 :: i5 :: i6 :: i7 :: rest := by rw [hsend.inputs, hi]; rfl
  have hturn' : t.TurnOf .pollResp := ⟨by rw [State.nextEnv_of_inputs hti, h3], hsend.cfg ▸ hm, hkept.seq, hidle⟩
  have hissue := Stretch.of_quiet_step hturn'.step_pollResp rfl rfl rfl
  have htaking : (t.sample.issueFbrecv .test).Taking i4 (i5 :: i6 :: i7 :: rest) :=
    ⟨rfl, rfl, congrArg List.tail hti, ⟨h4, hr4⟩⟩
  obtain ⟨u, htake, hkept', hidle', hpf'⟩ := State.takes_response htaking rfl ⟨h5, hr5⟩ ⟨h6, hr6⟩
    (decodeResponse_of_decodeFeedback hd)
  have hall := (hsend.trans hissue).trans htake
  have hui : u.inputs = i7 :: rest := by rw [hall.inputs, hi]; rfl
  refine ⟨u, hall, ⟨by rw [State.nextEnv_of_inputs hui, h7], hall.cfg ▸ hm, hkept'.seq, hidle'⟩,
    hkept'.ep.trans hkept.ep, hkept'.pcnt.trans hkept.pcnt, ?_⟩
  rw [hpf', ← hpf]
  rfl

/-- R174: a test writes neither stream nor the file, and leaves the block idle. -/
theorem State.TurnOf.tests {u : State} (h : u.TurnOf .test) :
    ∃ t, step u = .next t ∧ Stretch 1 [] [] u t ∧ t.op = .idle ∧ t.pf = u.pf := by
  have hstep := h.step_test
  have ho := h.idle
  rcases u.sample.testStep_cases with ⟨-, e⟩ | ⟨v, -, ⟨-, e⟩ | ⟨-, -, e⟩ | ⟨-, -, e⟩⟩ <;> rw [e] at hstep
  · exact ⟨_, hstep, .of_quiet_step hstep rfl rfl rfl, rfl, rfl⟩
  · exact ⟨_, hstep, .of_quiet_step hstep rfl rfl rfl, ho, rfl⟩
  · exact ⟨_, hstep, .of_quiet_step hstep rfl rfl rfl, rfl, rfl⟩
  · exact ⟨_, hstep, .of_quiet_step hstep rfl rfl rfl, ho, rfl⟩

/-- R174: where the test finds the target the next phase begins. -/
theorem State.TurnOf.test_arrived {u t : State} (h : u.TurnOf .test) (hstep : step u = .next t)
    (hv : u.pf.read 1 = some (u.ep.target u.cfg)) :
    t.seq = .issue ∧ t.ch = 1 ∧ t.pcnt = 0 ∧ t.ep = u.ep.flip := by
  rw [h.step_test, State.testStep_arrived (s := u.sample) hv] at hstep
  cases hstep
  exact ⟨rfl, rfl, rfl, rfl⟩

/-- R174: where it finds another position the block polls again, or halts at the limit. -/
theorem State.TurnOf.test_elsewhere {u t : State} (h : u.TurnOf .test) (hstep : step u = .next t) {v : Pos}
    (hv : u.pf.read 1 = some v) (hne : v ≠ u.ep.target u.cfg) : PolledInVain u t := by
  rw [Endpoint.target_eq] at hne
  obtain ⟨-, -, htest⟩ := arrivalTestEndsOrRepeatsThePhase u _ h.noReset h.mode h.seq h.idle rfl
  obtain ⟨hunb, hlim⟩ := htest v hv hne
  refine ⟨fun hp => ?_, fun m hp => ⟨fun hc => ?_, fun hc => ?_⟩⟩
  · cases hstep.symm.trans (hunb hp)
    exact ⟨rfl, rfl, rfl⟩
  · cases hstep.symm.trans ((hlim m hp).1 hc)
    exact ⟨rfl, rfl⟩
  · cases hstep.symm.trans ((hlim m hp).2 hc)
    exact ⟨rfl, rfl, rfl⟩

/-- The verdict of an exchange reads from its start what the states up to the test keep. -/
theorem PolledInVain.of_kept {s u t : State} (h : PolledInVain u t) (hc : u.cfg = s.cfg) (he : u.ep = s.ep)
    (hp : u.pcnt = s.pcnt) : PolledInVain s t := by
  rw [PolledInVain, hc, he, hp] at h
  exact h

/-- Settles O50: the response for channel 1 is what PF[1] holds at the test. -/
theorem oneExchangeTestsTheSentinel : Obligations.OneExchangeTestsTheSentinel := by
  rintro s i0 i1 i2 i3 i4 i5 i6 i7 rest v pos hm hs ho hi hr ht1 ht2 hr4 hr5 hr6 hd rfl
  have hx : s.ExchangeInputs i0 i1 i2 i3 i4 i5 i6 i7 rest := ⟨hi, hr, ⟨ht1, ht2⟩, hr4, hr5, hr6⟩
  obtain ⟨u, hu, hturn, hep, hpcnt, hpf⟩ := hx.reaches_test hm hs ho hd
  obtain ⟨t, hstep, htest, hidle, hpf'⟩ := hturn.tests
  have hall := hu.trans htest
  have hread : u.pf.read 1 = some v := by rw [hpf]; exact Memory.read_write_same s.pf 1 v
  rw [← Endpoint.target_eq, ← Endpoint.flip_eq, ← hu.cfg, ← hep]
  refine ⟨t, hall.run, hall.outbound, hall.inbound, hidle, by rw [hall.inputs, hi]; rfl, hpf' ▸ hread, fun a ha => ?_,
    fun hv => hturn.test_arrived hstep (hv ▸ hread),
    fun hv => (hturn.test_elsewhere hstep hread hv).of_kept hu.cfg hep hpcnt⟩
  rw [hpf', hpf]
  exact Memory.read_write_other s.pf v ha

end Sys2Proof.Machine
end

section
/-! Halting (60_exceptions.md R201 to R208): how a step comes to a halted state, what that step leaves as it was, and
which causes the default policies and the sequencer shut out. -/

namespace Sys2Proof.Machine

/-! ### How a step comes to a halted state -/

/-- R203, R204, R208: a step that ends halted found the block halted, or halts it for a cause of R201; every other
rule resumes in a running state. -/
theorem StepResult.halted_cases {s t : State} (h : StepResult s t) (ht : t.halted = true) :
    (s.halted = true ∧ t = s) ∨ ∃ s' c, HaltReason s c ∧ HaltsFrom s s' ∧ t = s'.halt c := by
  cases h with
  | halted _ hh e => exact .inl ⟨hh, e⟩
  | halt s' c _ _ hc hs e => exact .inr ⟨s', c, hc, hs, e⟩
  | reset _ e =>
    subst e
    exact absurd ht (ne_true_of_eq_false (SeqState.isHalted_atReset s.cfg.mode))
  | warm _ q _ _ _ _ hm _ _ hq e =>
    have hrun : q.isHalted = false := by
      rcases hq with ⟨-, -, rfl, -⟩ | ⟨-, -, rfl, -⟩
      · rfl
      · exact (SeqState.runsIn_idleState hm).2
    subst e
    exact absurd ht (ne_true_of_eq_false hrun)
  | issue _ q _ _ _ _ _ hm _ _ hq e =>
    have hrun : q.isHalted = false := by
      rcases hq with ⟨-, -, rfl, -⟩ | ⟨-, -, rfl, -⟩
      · rfl
      · exact (SeqState.runsIn_afterMoves hm).2
    subst e
    exact absurd ht (ne_true_of_eq_false hrun)
  | press | start | pollReq | pollResp | flip | again | hostMove | hostFbreq | hostFbrecv =>
    subst_vars
    cases ht
  | send | sendMore | wait | take0 | take1 | store | same | countDown | hostArrtest =>
    have hh := ‹s.halted = false›
    subst_vars
    exact absurd ht (ne_true_of_eq_false hh)

/-- A running block comes to a halted state by a halt. -/
theorem step_halts {s t : State} (h : step s = .next t) (hs : s.halted = false) (ht : t.halted = true) :
    ∃ s' c, HaltReason s.sample c ∧ HaltsFrom s.sample s' ∧ t = s'.halt c := by
  rcases (step_result h).halted_cases ht with ⟨hh, -⟩ | hhalt
  · exact absurd hh (ne_true_of_eq_false hs)
  · exact hhalt

/-- Settles O24: a halt writes `seq`, `op` and `err`, and what it starts from differs from the start of the step in
output ports and the taken bytes only. -/
theorem haltKeepsEveryOtherRegister : Obligations.HaltKeepsEveryOtherRegister := by
  intro s t h hs ht
  obtain ⟨s', c, -, hfrom, rfl⟩ := step_halts h hs ht
  refine ⟨⟨c, rfl, rfl⟩, rfl, ?_⟩
  rcases hfrom with rfl | ⟨rfl, -, -⟩ | ⟨rfl, -, -⟩ <;> simp

/-! ### A halted block -/

/-- Settles O25: of the five activities of a step a halted block without reset is left with none (R20). -/
theorem haltedBlockTakesNoStep : Obligations.HaltedBlockTakesNoStep := by
  intro s hh hr
  show step s = .next s.sample
  rcases step_cases s with ⟨hrst, -⟩ | ⟨-, -, e⟩ | ⟨-, hrun, -⟩ | ⟨-, hrun, -⟩ | ⟨-, hrun, -⟩ | ⟨-, hrun, -⟩
  · exact absurd hrst (ne_true_of_eq_false hr)
  · exact e
  all_goals exact absurd hh (ne_true_of_eq_false hrun)

/-! ### What raises no cause -/

/-- R107, R174: both errors come from a bound, a wait's or a poll's. -/
theorem HaltReason.haltState_ne_error {s : State} {c : HaltCause} (h : HaltReason s c)
    (hw : s.cfg.waitPolicy = .infinite) (hp : s.cfg.pollLimit = .unbounded) : c.haltState ≠ .error := by
  cases h with
  | timeout _ hx => simp [hw, waitExpired] at hx
  | arrival _ _ hx => simp [hp, pollExpired] at hx
  | host _ _ hf => simp [hf]
  | index | position | channel | unwritten => exact nofun

/-- R102, R145: the sequencer's channels are 1 to 16, which pass the check, and it issues no arrival test by index. -/
theorem HaltReason.ne_of_seq {s : State} {c : HaltCause} (h : HaltReason s c) (hi : Inv s) (hm : s.cfg.mode = .seq) :
    c ≠ .fChannel ∧ c ≠ .fArrIndex := by
  cases h with
  | channel b _ _ hb hbad =>
    obtain ⟨hlow, hhigh⟩ := hi.ch_bounds
    have hok : channelOk s.cfg.rangeCheck b = true := by
      rcases hb with ⟨-, rfl⟩ | ⟨-, rfl⟩
      · exact (channel_of_counter s.ch hlow hhigh).1 _
      · exact (channel_of_counter 16 (by decide) (by decide)).1 _
    exact absurd hok (ne_true_of_eq_false hbad)
  | host _ hd => simp [hm] at hd
  | timeout | index | position | unwritten | arrival => exact ⟨nofun, nofun⟩

/-- Settles O35: an error needs a bound that the defaults lack, and while the block runs on `err` is 0 (R33). -/
theorem defaultPoliciesRaiseNoError : Obligations.DefaultPoliciesRaiseNoError := by
  refine ⟨fun s t hw hp h hs ht => ?_, fun s t hi hm h hs => ?_⟩
  · have hhalted : t.halted = true := SeqState.isHalted_iff.mpr (.inl ht)
    rcases (step_result h).halted_cases hhalted with ⟨-, rfl⟩ | ⟨s', c, hc, -, rfl⟩
    · exact hs ht
    · exact hc.haltState_ne_error hw hp ht
  · cases ht : t.halted with
    | false => simp [(everyStepKeepsTheInvariant s t hi h).err_eq_none ht]
    | true =>
      obtain ⟨s', c, hc, -, rfl⟩ := step_halts h hs ht
      simpa using hc.ne_of_seq hi hm

end Sys2Proof.Machine
end

section
/-! Reset and hazards (70_reset_and_hazards.md): the reset step (R230), the stale sentinel (R244), the end of a run
(R236), and the end of every operation under a fair transport (R237). -/

namespace Sys2Proof.Machine

/-! ### The reset step -/

theorem step_of_rst {s : State} (h : s.nextEnv.rst = true) : step s = .next s.sample.resetStep := if_pos h

/-- Settles O26: apart from the model's own fields a reset step leaves the reset state of the configuration. -/
theorem resetStepGivesTheResetValues : Obligations.ResetStepGivesTheResetValues :=
  fun s h => ⟨_, step_of_rst h, State.resetState_resetFor s.cfg, rfl, rfl, rfl, rfl⟩

/-! ### The stale sentinel -/

/-- R174, R143: where PF[1] was never written the test faults. -/
theorem State.TurnOf.test_unwritten {u t : State} (h : u.TurnOf .test) (hstep : step u = .next t)
    (hn : u.pf.read 1 = none) : t.seq = .fault ∧ t.err = some .fUnwritten := by
  rw [h.step_test, State.testStep_unwritten (s := u.sample) hn] at hstep
  cases hstep
  exact ⟨rfl, rfl⟩

/-- Settles O51: the response is written to its own entry, so the test finds PF[1] as it was before the exchange. -/
theorem staleSentinelIsTested : Obligations.StaleSentinelIsTested := by
  rintro s i0 i1 i2 i3 i4 i5 i6 i7 rest c v pos hm hs ho hi hr ht1 ht2 hr4 hr5 hr6 hd hc rfl
  have hx : s.ExchangeInputs i0 i1 i2 i3 i4 i5 i6 i7 rest := ⟨hi, hr, ⟨ht1, ht2⟩, hr4, hr5, hr6⟩
  obtain ⟨u, hu, hturn, hep, hpcnt, hpf⟩ := hx.reaches_test hm hs ho hd
  obtain ⟨t, hstep, htest, hidle, hpf'⟩ := hturn.tests
  have hall := hu.trans htest
  have hother : ∀ a : Nat, a ≠ c.toNat → u.pf.read a = s.pf.read a := fun a ha => by
    rw [hpf]; exact Memory.read_write_other s.pf v ha
  have hstale : u.pf.read 1 = s.pf.read 1 := hother 1 fun h => hc (BitVec.eq_of_toNat_eq h.symm)
  rw [← Endpoint.target_eq, ← Endpoint.flip_eq, ← hu.cfg, ← hep, ← hstale]
  refine ⟨t, hall.run, hall.outbound, hall.inbound, hidle, by rw [hall.inputs, hi]; rfl, ?_, hpf' ▸ hother,
    hturn.test_unwritten hstep, hturn.test_arrived hstep,
    fun w hw hne => (hturn.test_elsewhere hstep hw hne).of_kept hu.cfg hep hpcnt⟩
  rw [hpf', hpf]
  exact Memory.read_write_same s.pf c.toNat v

/-! ### The end of a run -/

section ended
variable {e : Nat → Env} {f : Nat → State} {n : Nat}

/-- R203, R204, R80: a step from a final state without reset only samples its inputs. -/
theorem Final.step_eq {s : State} (h : Final e s) (hr : (e 0).rst = false) :
    step (s.present (e 0)) = .next (s.present (e 0)).sample := by
  rcases h with herr | ⟨hm, hq, ho, hno⟩
  · exact haltedBlockTakesNoStep (s.present (e 0)) (SeqState.isHalted_iff.mpr (.inl herr)) hr
  · exact (step_host (s := s.present (e 0)) hr (State.running_of_hIdle hq) ho hm).trans (hostStep_of_not_valid (hno 0))

theorem EndsAt.step_eq (h : EndsAt e f n) (hf : IsRun e f) (hr : (e n).rst = false) :
    f (n + 1) = ((f n).present (e n)).sample := by
  have hstep := Final.step_eq h hr
  rw [Nat.add_zero, hf n] at hstep
  exact Host.Outcome.next.inj hstep

/-- A final state is one also in the environment after its next step. -/
theorem EndsAt.succ (h : EndsAt e f n) (hf : IsRun e f) (hr : (e n).rst = false) : EndsAt e f (n + 1) := by
  unfold EndsAt
  rw [h.step_eq hf hr]
  refine h.imp_right fun ⟨hm, hq, ho, hno⟩ => ⟨hm, hq, ho, fun m => ?_⟩
  show (e (n + 1 + m)).cmdValid = false
  rw [Nat.add_right_comm]
  exact hno (m + 1)

/-- A run that has ended stays ended as long as it is not reset. -/
theorem EndsAt.add (h : EndsAt e f n) (hf : IsRun e f) (hr : ∀ m, (e (n + m)).rst = false) (m : Nat) :
    EndsAt e f (n + m) := by
  induction m with
  | zero => exact h
  | succ m ih => exact ih.succ hf (hr m)

/-- The registers stay as they were: each step only samples, by induction on the steps after the end. -/
theorem EndsAt.state_eq (h : EndsAt e f n) (hf : IsRun e f) (hr : ∀ m, (e (n + m)).rst = false) (m : Nat) :
    f (n + m + 1) = { f n with
      env := e (n + m), draws := (f n).draws + m + 1, tx := none, rxTake := false, cmdAccept := false } := by
  rw [(h.add hf hr m).step_eq hf (hr m)]
  induction m with
  | zero => rfl
  | succ m ih =>
    rw [← Nat.add_assoc, (h.add hf hr m).step_eq hf (hr m), ih]
    rfl

end ended

/-- Settles O57: a final state is left by reset or a further command only. -/
theorem endOfARunIsKept : Obligations.EndOfARunIsKept := by
  intro e f n hf h
  refine ⟨?_, fun hm => ?_, h.state_eq hf⟩
  · rcases h with herr | ⟨-, hq, -⟩
    · simp [herr]
    · simp [hq]
  · rcases h with herr | ⟨hm', -⟩
    · exact herr
    · cases hm.symm.trans hm'

/-! ### The end of every operation under a fair transport -/

/-- The link of the operation in progress is ready under these inputs. -/
def State.LinkReady (s : State) (e : Env) : Prop :=
  (s.op = .tx → e.txReady = true) ∧ (s.op = .rx → e.rxReady = true)

/-- The bytes that the operation in progress has still to send or to take. -/
def State.bytesLeft (s : State) : Nat :=
  match s.op with
  | .idle => 0
  | .tx => s.flen.toNat - s.k.toNat
  | .rx => 3 - s.k.toNat

section operation
variable {s t : State}

theorem State.bytesLeft_tx (h : s.op = .tx) : s.bytesLeft = s.flen.toNat - s.k.toNat := by simp [State.bytesLeft, h]

theorem State.bytesLeft_rx (h : s.op = .rx) : s.bytesLeft = 3 - s.k.toNat := by simp [State.bytesLeft, h]

/-- A halted block has no operation in progress. -/
theorem Inv.running_of_busy (hi : Inv s) (ho : s.op ≠ .idle) : s.halted = false := by
  obtain ⟨-, -, heng, -⟩ := hi
  cases hop : s.op with
  | idle => exact absurd hop ho
  | tx | rx => simp_all [State.engineLegal]

/-- A byte of a frame that is not the last one leaves fewer to send (R106). -/
theorem index_succ_left_lt {k : BitVec 2} {n : BitVec 3} (h : k.toNat < n.toNat) (hn : n.toNat ≤ 4)
    (hne : k.setWidth 3 ≠ n - 1#3) : n.toNat - (k + 1#2).toNat < n.toNat - k.toNat := by
  revert h hn hne; revert k n; decide

/-- R106, R107, R127: a step of an engine ends its operation, or moves a byte, or waits on a link that is not ready. -/
theorem StepResult.operation_progress (h : StepResult s t) (hi : Inv s) (hr : s.env.rst = false) (ho : s.op ≠ .idle) :
    t.op = .idle ∨ t.op = s.op ∧ (t.bytesLeft < s.bytesLeft ∨ t.bytesLeft = s.bytesLeft ∧ ¬ s.LinkReady s.env) := by
  have hrun := hi.running_of_busy ho
  cases h with
  | reset hrst => exact absurd hrst (ne_true_of_eq_false hr)
  | halted _ hh => exact absurd hh (ne_true_of_eq_false hrun)
  | halt _ _ _ _ _ _ e | send _ _ _ _ _ _ _ _ e | store _ _ _ _ _ _ _ _ _ _ e => exact .inl (e ▸ rfl)
  | sendMore f n _ _ htx _ hk hf e =>
    obtain ⟨-, hlegal, hlt⟩ := Inv.tx hi htx
    have hsending : s.Sending := ⟨hrun, htx, hlegal⟩
    refine .inr ⟨e ▸ rfl, .inl ?_⟩
    rw [State.bytesLeft_tx (e ▸ htx), State.bytesLeft_tx htx, e]
    exact index_succ_left_lt hlt hsending.flen_le (hf.length_eq hlegal ▸ hk)
  | wait _ _ hlink _ e =>
    refine .inr ⟨e ▸ rfl, .inr ⟨e ▸ rfl, fun ⟨hsend, htake⟩ => ?_⟩⟩
    rcases hlink with ⟨htx, h0⟩ | ⟨hrx, h0⟩
    · exact ne_true_of_eq_false h0 (hsend htx)
    · exact ne_true_of_eq_false h0 (htake hrx)
  | take0 _ _ hrx _ hk e | take1 _ _ hrx _ hk e =>
    refine .inr ⟨e ▸ rfl, .inl ?_⟩
    rw [State.bytesLeft_rx (e ▸ hrx), State.bytesLeft_rx hrx, hk, e]
    simp
  | _ => exact absurd ‹s.op = .idle› ho

end operation

section fair
variable {e : Nat → Env} {f : Nat → State}

/-- The invariant holds along a run, by induction on the steps. -/
theorem IsRun.inv (hf : IsRun e f) (hi : Inv (f 0)) (n : Nat) : Inv (f n) := by
  induction n with
  | zero => exact hi
  | succ n ih => exact everyStepKeepsTheInvariant ((f n).present (e n)) (f (n + 1)) ih (hf n)

/-- R237: the link of an operation in progress is ready now or later. -/
theorem TransportFair.ready (h : TransportFair e f) (n : Nat) : ∃ d, (f n).LinkReady (e (n + d)) := by
  obtain ⟨htx, hrx⟩ := h
  cases hop : (f n).op with
  | idle => exact ⟨0, by simp [State.LinkReady, hop]⟩
  | tx =>
    obtain ⟨m, hm, hready⟩ := htx n hop
    obtain ⟨d, rfl⟩ := Nat.exists_eq_add_of_le hm
    exact ⟨d, fun _ => hready, by simp [hop]⟩
  | rx =>
    obtain ⟨m, hm, hready⟩ := hrx n hop
    obtain ⟨d, rfl⟩ := Nat.exists_eq_add_of_le hm
    exact ⟨d, by simp [hop], fun _ => hready⟩

/-- `StepResult.operation_progress` in a run without reset. -/
theorem IsRun.operation_progress (hf : IsRun e f) (hr : NoReset e) (hi : Inv (f 0)) {n : Nat} (ho : (f n).op ≠ .idle) :
    (f (n + 1)).op = .idle ∨ (f (n + 1)).op = (f n).op ∧
      ((f (n + 1)).bytesLeft < (f n).bytesLeft ∨
        (f (n + 1)).bytesLeft = (f n).bytesLeft ∧ ¬ (f n).LinkReady (e n)) :=
  (step_result (hf n)).operation_progress (hf.inv hi n) (hr n) ho

/-- Where the link is ready d steps from now, the operation ends or moves a byte, by induction on d. -/
theorem IsRun.ends_or_moves_byte (hf : IsRun e f) (hr : NoReset e) (hi : Inv (f 0)) {d n : Nat}
    (ho : (f n).op ≠ .idle) (hd : (f n).LinkReady (e (n + d))) :
    ∃ m, (f m).op = .idle ∨ (f m).op ≠ .idle ∧ (f m).bytesLeft < (f n).bytesLeft := by
  induction d generalizing n with
  | zero =>
    rcases hf.operation_progress hr hi ho with hidle | ⟨hop, hlt | ⟨-, hnot⟩⟩
    · exact ⟨n + 1, .inl hidle⟩
    · exact ⟨n + 1, .inr ⟨hop ▸ ho, hlt⟩⟩
    · exact absurd hd hnot
  | succ d ih =>
    rcases hf.operation_progress hr hi ho with hidle | ⟨hop, hlt | ⟨heq, -⟩⟩
    · exact ⟨n + 1, .inl hidle⟩
    · exact ⟨n + 1, .inr ⟨hop ▸ ho, hlt⟩⟩
    · have hd' : (f (n + 1)).LinkReady (e (n + 1 + d)) := by
        rw [State.LinkReady, hop, Nat.add_right_comm]
        exact hd
      rw [← heq]
      exact ih (hop ▸ ho) hd'

/-- R237: by strong induction on the bytes left. -/
theorem IsRun.operation_ends (hf : IsRun e f) (hr : NoReset e) (hi : Inv (f 0)) (hfair : TransportFair e f) {n : Nat}
    (ho : (f n).op ≠ .idle) : ∃ m, (f m).op = .idle := by
  induction hb : (f n).bytesLeft using Nat.strong_induction_on generalizing n with
  | _ b ih =>
    obtain ⟨d, hd⟩ := hfair.ready n
    obtain ⟨m, hidle | ⟨hbusy, hlt⟩⟩ := hf.ends_or_moves_byte hr hi ho hd
    · exact ⟨m, hidle⟩
    · exact ih _ (hb ▸ hlt) hbusy rfl

end fair

/-- Settles O53: each ready step leaves fewer bytes, and a fair transport never stops making the link ready. -/
theorem fairTransportEndsEveryOperation : Obligations.FairTransportEndsEveryOperation :=
  fun _ _ hf hr hfair hi _ ho => hf.operation_ends hr hi hfair ho

end Sys2Proof.Machine
end
